-- ==== Sys2Proof/Word.lean ====
section
/-! DEFINITION. The words of the block: bytes, the two cursors, the selector word and the two word formats. -/

namespace Sys2Proof

/-- A byte: an input byte, a marker byte or a buffer cell, unsigned (00_scope R12, 20_memory R52). -/
abbrev Byte := BitVec 8

/-- The Marker Index `mi`, 3 bits (10_state R22). -/
abbrev MarkerIndex := BitVec 3

/-- The Write Index `wi`, 6 bits; also a cell address of the pixel buffer (10_state R24, 20_memory R50). -/
abbrev WriteIndex := BitVec 6

/-- The selector word `{state[1:0], mi[2:0], b[7:0]}` (30_encoding R81). -/
abbrev SelectorWord := BitVec 13

/-- The publisher's one-bit selector `ready` (30_encoding R86). -/
abbrev CommandWord := BitVec 1

/-- What picks the next operation, in the two formats of the opcode table (30_encoding R88). -/
inductive Word where
  /-- Format `SEL`: the decoder's selector word. -/
  | sel (w : SelectorWord)
  /-- Format `CMD`: the publisher's one-bit word. -/
  | cmd (w : CommandWord)
  deriving DecidableEq, Repr

end Sys2Proof
end

