-- ==== Sys2Proof/Config.lean ====
section
/-! DEFINITION. The fixed parameters of the block (00_scope R7) and the two the spec leaves open. -/

namespace Sys2Proof.Config

/-- `N`, the number of cells of the pixel buffer (00_scope R7). -/
def numCells : Nat := 64

/-- `LEN_SM`, the length of the start marker (00_scope R7). -/
def lenStartMarker : Nat := 6

/-- `LEN_EM`, the length of the end marker (00_scope R7). -/
def lenEndMarker : Nat := 7

/-- `COLS`, the cells of one row of the grid (00_scope R7). -/
def numCols : Nat := 8

/-- `BAUD`, the link's baud rate: OPEN in the spec (92 D17); no rule and no definition of the model reads it.
DESIGN CHOICE (log 11): an uninterpreted constant. Safe. -/
opaque baud : Nat

/-- `SERIAL_FORMAT`, the bit order and character format of the link: OPEN in the spec (92 D16); nothing reads it.
DESIGN CHOICE (log 11): an uninterpreted constant. Safe. -/
opaque serialFormat : Nat

end Sys2Proof.Config
end

