-- ==== Sys2Proof/Machine/Markers.lean ====
section
/-! DEFINITION. The marker constants, a read-only space of the block (20_memory R50 (2), 10_state R29). -/

namespace Sys2Proof.Machine

/-- `SM`, the six bytes of `<data>` (00_scope R8).  PRESUMED (log 5): the spec supplies the ASCII codes from general
knowledge (93 G1).  Unsafe if the original used another character set. -/
def startMarker : List Byte := [0x3C, 0x64, 0x61, 0x74, 0x61, 0x3E]

/-- `EM`, the seven bytes of `</data>` (00_scope R8).  PRESUMED (log 5), as `startMarker`.  Unsafe. -/
def endMarker : List Byte := [0x3C, 0x2F, 0x64, 0x61, 0x74, 0x61, 0x3E]

/-- `SM[0] = EM[0] = 0x3C`, the byte that opens a match of either marker (00_scope R8). -/
def markerOpen : Byte := 0x3C

/-- `b == SM[mi]` (30_encoding R83); no index at or above `LEN_SM` matches. -/
def matchesStart (mi : MarkerIndex) (b : Byte) : Bool := startMarker[mi.toNat]? == some b

/-- `b == EM[mi]` (30_encoding R83). -/
def matchesEnd (mi : MarkerIndex) (b : Byte) : Bool := endMarker[mi.toNat]? == some b

/-- `EM[0..mi)`, the bytes a backtrack replays, `EM[0]` first (40_frame_decoder R128). -/
def heldBack (mi : MarkerIndex) : List Byte := endMarker.take mi.toNat

end Sys2Proof.Machine
end

