-- ==== Sys2Proof/Machine/State.lean ====
section
/-! DEFINITION. The state of the block, its value after reset, and the (empty) set of reasons to stop. -/

namespace Sys2Proof.Machine

/-- The Decoder State; exactly one variant is active (10_state R20). -/
inductive DecoderState where
  /-- No frame in progress; bytes are discarded until a `'<'`. -/
  | standby
  /-- A start marker is being matched, or has been matched in full. -/
  | readingStart
  /-- Payload bytes are being written to the buffer. -/
  | readingData
  /-- An end marker is tentatively being matched; its bytes are held back. -/
  | readingEnd
  deriving DecidableEq, Repr

/-- One `setPixel(row, col, on)` event (42_control_loop R180; widths by decision D14, log 13). -/
structure PixelEvent where
  row : BitVec 3
  col : BitVec 3
  on : Bool
  deriving DecidableEq, Repr

/-- One pending input of the environment, in the order in which the control loop meets them (42_control_loop R185).
DESIGN CHOICE (log 1, log 2): the environment's part of the system as a list in State. Safe. -/
inductive EnvInput where
  /-- The next byte of the input stream is available (R176, R177). -/
  | byte (b : Byte)
  /-- One poll of `ByteAvailable()` finds no byte (R177). -/
  | gap
  /-- `rst` is asserted (70_reset_and_hazards R230). -/
  | reset
  deriving DecidableEq, Repr

/-- The pixel buffer as cells `(address, byte)`, addresses strictly rising, no cell equal to what an unlisted one reads
as (10_state R27; the form is the model's, log 6). -/
abbrev Memory := List Host.Cell

/-- Everything the spec gives the block (10_state R46), the display trace (42_control_loop R180) and the environment's
pending inputs (10_state R34 (b)). -/
structure State where
  /-- The Decoder State (10_state R20). -/
  state : DecoderState
  /-- The Marker Index (10_state R22). -/
  mi : MarkerIndex
  /-- The Write Index (10_state R24). -/
  wi : WriteIndex
  /-- The Frame-Ready Flag (10_state R26). -/
  ready : Bool
  /-- The Pixel Buffer (10_state R27). -/
  buf : Memory
  /-- The `setPixel` events since reset, oldest first (42_control_loop R180). -/
  trace : List PixelEvent
  /-- The environment's pending inputs, next first; not part of the block (10_state R30, R34 (b)). -/
  env : List EnvInput
  deriving DecidableEq, Repr

/-- The reasons to stop with a fault: none.  "In a model the type of fault reasons of the block is empty"
(60_exceptions R200). -/
inductive Fault : Type
  deriving DecidableEq, Repr

/-- The reasons to refuse an instruction. -/
inductive Refusal where
  /-- Raised by an arm of `exec` whose instruction has no meaning yet; no arm of this model raises it.  Safe. -/
  | notModelled (mnemonic : String)
  deriving DecidableEq, Repr

/-- The outcome of one step of the block. -/
abbrev Result := Host.Outcome State Fault Refusal

/-- The machine after reset (10_state R40 to R45).  `ready = 0` is the spec's decision D4 (R43, log 4); the empty `env`
is the model's own field: DESIGN CHOICE (log 1). -/
def State.reset : State where
  state := .standby
  mi := 0
  wi := 0
  ready := false
  buf := []
  trace := []
  env := []

end Sys2Proof.Machine
end

