-- ==== Sys2Proof/Machine/Ops.lean ====
section
/-! DEFINITION. The named operations over the pixel buffer and the registers.  The block takes no exception and has no
return from one (60_exceptions R200, R204, R205); the one event from outside is RESET, `takeReset`. -/

namespace Sys2Proof.Machine

/-- What a cell that nothing has written since reset reads as: `0x00` (10_state R44). -/
def unlistedByte : Byte := 0x00

/-- The byte of the first cell listed at `a`, else the unlisted byte. -/
def cellAt : Memory → Nat → Byte
  | [], _ => unlistedByte
  | c :: m, a => if c.1 = a then c.2 else cellAt m a

/-- `MemRead(a, 1)`: the cell `buf[a]` (00_scope R13, 20_memory R52).  No side effect (R57), no fault (R54). -/
def Memory.read (m : Memory) (a : WriteIndex) : Byte := cellAt m a.toNat

/-- The cells other than the one at `a`. -/
def eraseCell (a : Nat) (m : Memory) : Memory := m.filter fun c => c.1 != a

/-- The cell `(a, v)` put before the first cell of a higher address. -/
def insertCell (a : Nat) (v : Byte) : Memory → Memory
  | [] => [(a, v)]
  | c :: m => if c.1 < a then c :: insertCell a v m else (a, v) :: c :: m

/-- `MemWrite(a, 1, v)`: `buf[a] <- v`, every other cell as it was (00_scope R13, 20_memory R52, R57). -/
def Memory.write (m : Memory) (a : WriteIndex) (v : Byte) : Memory :=
  if v = unlistedByte then eraseCell a.toNat m else insertCell a.toNat v (eraseCell a.toNat m)

/-- The canonical form of the buffer: addresses strictly rising and below `N`, no cell listed with the unlisted byte. -/
abbrev Memory.wf (m : Memory) : Prop :=
  m.Pairwise (fun c d => c.1 < d.1) ∧ ∀ c ∈ m, c.1 < Config.numCells ∧ c.2 ≠ unlistedByte

/-- `state <- d` (00_scope R13). -/
def setState (d : DecoderState) (s : State) : State := { s with state := d }

/-- `mi <- k`. -/
def setMi (k : MarkerIndex) (s : State) : State := { s with mi := k }

/-- `wi <- k`. -/
def setWi (k : WriteIndex) (s : State) : State := { s with wi := k }

/-- `ready <- r`. -/
def setReady (r : Bool) (s : State) : State := { s with ready := r }

/-- `buf[a] <- v`. -/
def storeCell (a : WriteIndex) (v : Byte) (s : State) : State := { s with buf := s.buf.write a v }

/-- `mi <- mi + 1`, the effect shared by `RS_MATCH` and `RE_MATCH` (40_frame_decoder R117, R127). -/
def advanceMarker (s : State) : State := setMi (s.mi + 1) s

/-- `wi + 1` while `wi < N - 1`, else `wi` (40_frame_decoder R110, R137). -/
def nextWriteIndex (wi : WriteIndex) : WriteIndex := if wi.toNat < Config.numCells - 1 then wi + 1 else wi

/-- `Append(v)`, the write-controller: the write always happens at the old `wi`; the increment saturates
(40_frame_decoder R110). -/
def append (v : Byte) (s : State) : State := setWi (nextWriteIndex s.wi) (storeCell s.wi v s)

/-- `Append` of each byte in order (40_frame_decoder R128, the loop and the final append). -/
def appendAll : List Byte → State → State
  | [], s => s
  | v :: vs, s => appendAll vs (append v s)

/-- Events appended to the display trace in order (42_control_loop R180). -/
def emit (es : List PixelEvent) (s : State) : State := { s with trace := s.trace ++ es }

/-- `RESET`: the reset state whatever the block was doing, no byte consumed, no event emitted, the display trace empty
(70_reset_and_hazards R230, 10_state R45); `rest` is what the environment has pending after it. -/
def takeReset (rest : List EnvInput) : State := { State.reset with env := rest }

end Sys2Proof.Machine
end

