-- ==== Sys2Proof/Machine/Flags.lean ====
section
/-! DEFINITION. The computed bits: the pixel threshold, the row and column of a cell, and the events of a published
frame.  The block's only flag is `ready` (10_state R26), set and cleared by the meanings. -/

namespace Sys2Proof.Machine

/-- `THRESH` (00_scope R7): it is 127, not the most significant bit (90_conflicts C5). -/
def threshold : Nat := 127

/-- `on`: the cell value, unsigned, is at least 127 (41_buffer_publisher R152 (a)). -/
def pixelOn (v : Byte) : Bool := decide (threshold ≤ v.toNat)

/-- `row = index / 8` (41_buffer_publisher R152 (b)). -/
def rowOf (i : WriteIndex) : BitVec 3 := BitVec.ofNat 3 (i.toNat / Config.numCols)

/-- `col = index % 8` (41_buffer_publisher R152 (b)). -/
def colOf (i : WriteIndex) : BitVec 3 := BitVec.ofNat 3 (i.toNat % Config.numCols)

/-- The `setPixel` event of cell `i` (41_buffer_publisher R150). -/
def pixelEvent (m : Memory) (i : WriteIndex) : PixelEvent where
  row := rowOf i
  col := colOf i
  on := pixelOn (m.read i)

/-- The events of one published frame: every cell, in ascending order of the index (41_buffer_publisher R150, R154). -/
def frameEvents (m : Memory) : List PixelEvent :=
  (List.range Config.numCells).map fun i => pixelEvent m (BitVec.ofNat 6 i)

end Sys2Proof.Machine
end

