-- ==== Sys2Proof/Machine/Publisher.lean ====
section
/-! DEFINITION. The meanings of the publisher (41_buffer_publisher). -/

namespace Sys2Proof.Machine

/-- `PUBLISH`: one `setPixel` event per cell in row-major order, then `ready <- 0`; the buffer is not written (R150). -/
def execPublish (s : State) : Result := .next (setReady false (emit (frameEvents s.buf) s))

/-- `PUBLISH_IDLE`: no state change, no event (R151). -/
def execPublishIdle (s : State) : Result := .next s

end Sys2Proof.Machine
end

