-- ==== Sys2Proof/Machine/ReadingData.lean ====
section
/-! DEFINITION. The meanings of the `ReadingData` group (40_frame_decoder section 5). -/

namespace Sys2Proof.Machine

/-- `RD_TENT`: `mi <- 1; state <- ReadingEnd`; the byte is held back (R122). -/
def execRdTent (s : State) : Result := .next (setState .readingEnd (setMi 1 s))

/-- `RD_APPEND`: `Append(b)` (R123). -/
def execRdAppend (b : Byte) (s : State) : Result := .next (append b s)

end Sys2Proof.Machine
end

