-- ==== Sys2Proof/Machine/ReadingEnd.lean ====
section
/-! DEFINITION. The meanings of the `ReadingEnd` group (40_frame_decoder section 6). -/

namespace Sys2Proof.Machine

/-- `RE_DONE`: `state <- Standby; wi <- 0; ready <- 1`; the value of the byte is unused (R126). -/
def execReDone (s : State) : Result := .next (setReady true (setWi 0 (setState .standby s)))

/-- `RE_MATCH` with `mi = 0`: `mi <- mi + 1` (R127). -/
def execReMatch0 (s : State) : Result := .next (advanceMarker s)

/-- `RE_MATCH` with `mi = 1` (R127). -/
def execReMatch1 (s : State) : Result := .next (advanceMarker s)

/-- `RE_MATCH` with `mi = 2` (R127). -/
def execReMatch2 (s : State) : Result := .next (advanceMarker s)

/-- `RE_MATCH` with `mi = 3` (R127). -/
def execReMatch3 (s : State) : Result := .next (advanceMarker s)

/-- `RE_MATCH` with `mi = 4` (R127). -/
def execReMatch4 (s : State) : Result := .next (advanceMarker s)

/-- `RE_MATCH` with `mi = 5` (R127). -/
def execReMatch5 (s : State) : Result := .next (advanceMarker s)

/-- `RE_BACKTRACK`: `Append(EM[k])` for `k = 0, …, mi - 1`, then `Append(b)`, then `state <- ReadingData`; `mi` is the
register and keeps its value (R128). -/
def execReBacktrack (b : Byte) (s : State) : Result :=
  .next (setState .readingData (append b (appendAll (heldBack s.mi) s)))

end Sys2Proof.Machine
end

