-- ==== Sys2Proof/Machine/ReadingStart.lean ====
section
/-! DEFINITION. The meanings of the `ReadingStart` group (40_frame_decoder section 4). -/

namespace Sys2Proof.Machine

/-- `RS_CAPTURE`: `buf[0] <- b` whatever `wi` held, `wi <- 1`, `state <- ReadingData` (R116). -/
def execRsCapture (b : Byte) (s : State) : Result :=
  .next (setState .readingData (setWi 1 (storeCell 0 b s)))

/-- `RS_MATCH` with `mi = 0`: `mi <- mi + 1` (R117). -/
def execRsMatch0 (s : State) : Result := .next (advanceMarker s)

/-- `RS_MATCH` with `mi = 1` (R117). -/
def execRsMatch1 (s : State) : Result := .next (advanceMarker s)

/-- `RS_MATCH` with `mi = 2` (R117). -/
def execRsMatch2 (s : State) : Result := .next (advanceMarker s)

/-- `RS_MATCH` with `mi = 3` (R117). -/
def execRsMatch3 (s : State) : Result := .next (advanceMarker s)

/-- `RS_MATCH` with `mi = 4` (R117). -/
def execRsMatch4 (s : State) : Result := .next (advanceMarker s)

/-- `RS_MATCH` with `mi = 5` (R117). -/
def execRsMatch5 (s : State) : Result := .next (advanceMarker s)

/-- `RS_ABORT`: `state <- Standby`; `mi` and `wi` keep their values (R118). -/
def execRsAbort (s : State) : Result := .next (setState .standby s)

end Sys2Proof.Machine
end

