-- ==== Sys2Proof/Machine/Standby.lean ====
section
/-! DEFINITION. The meanings of the `Standby` group (40_frame_decoder section 3).  The byte has been consumed by the
control loop before a meaning runs (40_frame_decoder R111, 42_control_loop R171). -/

namespace Sys2Proof.Machine

/-- `SB_ARM`: `mi <- 1; state <- ReadingStart` (R112). -/
def execSbArm (s : State) : Result := .next (setState .readingStart (setMi 1 s))

/-- `SB_SKIP`: no state change; the byte is lost (R113). -/
def execSbSkip (s : State) : Result := .next s

end Sys2Proof.Machine
end

