-- ==== Sys2Proof/Syntax.lean ====
section
/-! DEFINITION. The operations of the block: one constructor per row of `spec/opcode_table.json`. -/

namespace Sys2Proof

/-- The 22 rows of the opcode table (30_encoding R83, R84, R86, R88).  A constructor carries the selector bits its row
leaves free: `mi` is `sel[10:8]`, `b` is `sel[7:0]`.  Only `b` is an operand of the operation (R80); `mi` is kept so
that decoding drops no bit, and the meanings read the register `mi`.  DESIGN CHOICE (log 7). Safe. -/
inductive Instr where
  /-- `Standby`, `b == SM[0]` (R112). -/
  | sbArm (mi : MarkerIndex)
  /-- `Standby`, any other byte (R113). -/
  | sbSkip (mi : MarkerIndex) (b : Byte)
  /-- `ReadingStart`, `mi >= 6` (R116). -/
  | rsCapture (mi : MarkerIndex) (b : Byte)
  /-- `ReadingStart`, `mi == 0`, `b == SM[0]` (R117). -/
  | rsMatch0
  /-- `ReadingStart`, `mi == 1`, `b == SM[1]` (R117). -/
  | rsMatch1
  /-- `ReadingStart`, `mi == 2`, `b == SM[2]` (R117). -/
  | rsMatch2
  /-- `ReadingStart`, `mi == 3`, `b == SM[3]` (R117). -/
  | rsMatch3
  /-- `ReadingStart`, `mi == 4`, `b == SM[4]` (R117). -/
  | rsMatch4
  /-- `ReadingStart`, `mi == 5`, `b == SM[5]` (R117). -/
  | rsMatch5
  /-- `ReadingStart`, `mi < 6`, `b != SM[mi]` (R118). -/
  | rsAbort (mi : MarkerIndex) (b : Byte)
  /-- `ReadingData`, `b == EM[0]` (R122). -/
  | rdTent (mi : MarkerIndex)
  /-- `ReadingData`, any other byte (R123). -/
  | rdAppend (mi : MarkerIndex) (b : Byte)
  /-- `ReadingEnd`, `mi >= 6` (R126). -/
  | reDone (mi : MarkerIndex) (b : Byte)
  /-- `ReadingEnd`, `mi == 0`, `b == EM[0]` (R127). -/
  | reMatch0
  /-- `ReadingEnd`, `mi == 1`, `b == EM[1]` (R127). -/
  | reMatch1
  /-- `ReadingEnd`, `mi == 2`, `b == EM[2]` (R127). -/
  | reMatch2
  /-- `ReadingEnd`, `mi == 3`, `b == EM[3]` (R127). -/
  | reMatch3
  /-- `ReadingEnd`, `mi == 4`, `b == EM[4]` (R127). -/
  | reMatch4
  /-- `ReadingEnd`, `mi == 5`, `b == EM[5]` (R127). -/
  | reMatch5
  /-- `ReadingEnd`, `mi < 6`, `b != EM[mi]` (R128). -/
  | reBacktrack (mi : MarkerIndex) (b : Byte)
  /-- The publisher with `ready = 1` (R150). -/
  | publish
  /-- The publisher with `ready = 0` (R151). -/
  | publishIdle
  deriving DecidableEq, Repr

end Sys2Proof
end

