-- ==== Sys2Proof/Machine/Dispatch.lean ====
section
/-! DEFINITION. One arm per operation.  The meanings read the register `mi`, never the selector bits kept in the
instruction (log 7). -/

namespace Sys2Proof.Machine

def exec (i : Instr) (s : State) : Host.Outcome State Fault Refusal :=
  match i with
  | .sbArm _ => Sys2Proof.Machine.execSbArm s
  | .sbSkip _ _ => Sys2Proof.Machine.execSbSkip s
  | .rsCapture _ b => Sys2Proof.Machine.execRsCapture b s
  | .rsMatch0 => Sys2Proof.Machine.execRsMatch0 s
  | .rsMatch1 => Sys2Proof.Machine.execRsMatch1 s
  | .rsMatch2 => Sys2Proof.Machine.execRsMatch2 s
  | .rsMatch3 => Sys2Proof.Machine.execRsMatch3 s
  | .rsMatch4 => Sys2Proof.Machine.execRsMatch4 s
  | .rsMatch5 => Sys2Proof.Machine.execRsMatch5 s
  | .rsAbort _ _ => Sys2Proof.Machine.execRsAbort s
  | .rdTent _ => Sys2Proof.Machine.execRdTent s
  | .rdAppend _ b => Sys2Proof.Machine.execRdAppend b s
  | .reDone _ _ => Sys2Proof.Machine.execReDone s
  | .reMatch0 => Sys2Proof.Machine.execReMatch0 s
  | .reMatch1 => Sys2Proof.Machine.execReMatch1 s
  | .reMatch2 => Sys2Proof.Machine.execReMatch2 s
  | .reMatch3 => Sys2Proof.Machine.execReMatch3 s
  | .reMatch4 => Sys2Proof.Machine.execReMatch4 s
  | .reMatch5 => Sys2Proof.Machine.execReMatch5 s
  | .reBacktrack _ b => Sys2Proof.Machine.execReBacktrack b s
  | .publish => Sys2Proof.Machine.execPublish s
  | .publishIdle => Sys2Proof.Machine.execPublishIdle s

end Sys2Proof.Machine
end

