-- ==== Sys2Proof/Decode.lean ====
section
/-! DEFINITION. The decoder (total), the encoder, and the opcode table's rows as data (30_encoding). -/

namespace Sys2Proof

/-- `{state[1:0], mi[2:0], b[7:0]}` (30_encoding R81). -/
def selectorWord (st : BitVec 2) (mi : MarkerIndex) (b : Byte) : SelectorWord := st ++ mi ++ b

/-- `sel[12:11]` (30_encoding R81). -/
def selState (w : SelectorWord) : BitVec 2 := w.extractLsb' 11 2

/-- `sel[10:8]` (30_encoding R81). -/
def selMi (w : SelectorWord) : MarkerIndex := w.extractLsb' 8 3

/-- `sel[7:0]` (30_encoding R81). -/
def selByte (w : SelectorWord) : Byte := w.extractLsb' 0 8

/-- The group of `Standby` (30_encoding R83). -/
def decodeStandby (mi : MarkerIndex) (b : Byte) : Instr :=
  if b = Machine.markerOpen then .sbArm mi else .sbSkip mi b

/-- `RS_MATCH` expanded by `mi` (30_encoding R84). -/
def startMatchRow (mi : MarkerIndex) : Instr :=
  match mi.toNat with
  | 0 => .rsMatch0
  | 1 => .rsMatch1
  | 2 => .rsMatch2
  | 3 => .rsMatch3
  | 4 => .rsMatch4
  | _ => .rsMatch5

/-- `RE_MATCH` expanded by `mi` (30_encoding R84). -/
def endMatchRow (mi : MarkerIndex) : Instr :=
  match mi.toNat with
  | 0 => .reMatch0
  | 1 => .reMatch1
  | 2 => .reMatch2
  | 3 => .reMatch3
  | 4 => .reMatch4
  | _ => .reMatch5

/-- The group of `ReadingStart`; the test of `mi` comes first (30_encoding R82, R83). -/
def decodeReadingStart (mi : MarkerIndex) (b : Byte) : Instr :=
  if Config.lenStartMarker ≤ mi.toNat then .rsCapture mi b
  else if Machine.matchesStart mi b then startMatchRow mi
  else .rsAbort mi b

/-- The group of `ReadingData` (30_encoding R83). -/
def decodeReadingData (mi : MarkerIndex) (b : Byte) : Instr :=
  if b = Machine.markerOpen then .rdTent mi else .rdAppend mi b

/-- The group of `ReadingEnd`; the test of `mi` comes first, which is the pinned off-by-one (30_encoding R82, R83;
90_conflicts C4). -/
def decodeReadingEnd (mi : MarkerIndex) (b : Byte) : Instr :=
  if Config.lenEndMarker - 1 ≤ mi.toNat then .reDone mi b
  else if Machine.matchesEnd mi b then endMatchRow mi
  else .reBacktrack mi b

/-- The operation selected by the three fields of a selector word, the state in the encoding of 10_state R21. -/
def decodeFields (st : BitVec 2) (mi : MarkerIndex) (b : Byte) : Instr :=
  if st = 0b00 then decodeStandby mi b
  else if st = 0b01 then decodeReadingStart mi b
  else if st = 0b10 then decodeReadingData mi b
  else decodeReadingEnd mi b

/-- The decoder: total and deterministic on every word of either format (30_encoding R82, R86, R87). -/
def decode : Word → Instr
  | .sel w => decodeFields (selState w) (selMi w) (selByte w)
  | .cmd w => if w = 1 then .publish else .publishIdle

/-- Why a number is no word of the opcode table. -/
inductive DecodeRefusal where
  /-- A number given as a `CMD` word that has a bit above `cmd[0]`. -/
  | aboveCommandWord
  /-- A number given as a `SEL` word that has a bit above `sel[12]`. -/
  | aboveSelectorWord
  deriving DecidableEq, Repr

/-- The word that `nbits` bits with the value `w` are: a row of one byte is a `CMD` row, a longer one a `SEL` row.
DESIGN CHOICE (log 17): the block stores no instruction, so the formats are told apart by their length. Safe. -/
def tableWord (nbits w : Nat) : Except DecodeRefusal Word :=
  if nbits ≤ 8 then
    if w < 2 then .ok (.cmd (BitVec.ofNat 1 w)) else .error .aboveCommandWord
  else
    if w < 8192 then .ok (.sel (BitVec.ofNat 13 w)) else .error .aboveSelectorWord

/-- The instruction the decoder reads from an opcode-table word of `nbits` bits with the value `w`. -/
def decodeTableWord (nbits w : Nat) : Option Instr :=
  match tableWord nbits w with
  | .ok word => some (decode word)
  | .error _ => none

/-- The word of a well-formed instruction, from the tables of 30_encoding R83, R84 and R86. -/
def encode : Instr → Word
  | .sbArm mi => .sel (selectorWord 0b00 mi 0x3C)
  | .sbSkip mi b => .sel (selectorWord 0b00 mi b)
  | .rsCapture mi b => .sel (selectorWord 0b01 mi b)
  | .rsMatch0 => .sel 0x083C
  | .rsMatch1 => .sel 0x0964
  | .rsMatch2 => .sel 0x0A61
  | .rsMatch3 => .sel 0x0B74
  | .rsMatch4 => .sel 0x0C61
  | .rsMatch5 => .sel 0x0D3E
  | .rsAbort mi b => .sel (selectorWord 0b01 mi b)
  | .rdTent mi => .sel (selectorWord 0b10 mi 0x3C)
  | .rdAppend mi b => .sel (selectorWord 0b10 mi b)
  | .reDone mi b => .sel (selectorWord 0b11 mi b)
  | .reMatch0 => .sel 0x183C
  | .reMatch1 => .sel 0x192F
  | .reMatch2 => .sel 0x1A64
  | .reMatch3 => .sel 0x1B61
  | .reMatch4 => .sel 0x1C74
  | .reMatch5 => .sel 0x1D61
  | .reBacktrack mi b => .sel (selectorWord 0b11 mi b)
  | .publish => .cmd 1
  | .publishIdle => .cmd 0

/-- The name of the row of the opcode table (`spec/opcode_table.json`). -/
def mnemonicOf : Instr → String
  | .sbArm _ => "SB_ARM"
  | .sbSkip _ _ => "SB_SKIP"
  | .rsCapture _ _ => "RS_CAPTURE"
  | .rsMatch0 => "RS_MATCH_0"
  | .rsMatch1 => "RS_MATCH_1"
  | .rsMatch2 => "RS_MATCH_2"
  | .rsMatch3 => "RS_MATCH_3"
  | .rsMatch4 => "RS_MATCH_4"
  | .rsMatch5 => "RS_MATCH_5"
  | .rsAbort _ _ => "RS_ABORT"
  | .rdTent _ => "RD_TENT"
  | .rdAppend _ _ => "RD_APPEND"
  | .reDone _ _ => "RE_DONE"
  | .reMatch0 => "RE_MATCH_0"
  | .reMatch1 => "RE_MATCH_1"
  | .reMatch2 => "RE_MATCH_2"
  | .reMatch3 => "RE_MATCH_3"
  | .reMatch4 => "RE_MATCH_4"
  | .reMatch5 => "RE_MATCH_5"
  | .reBacktrack _ _ => "RE_BACKTRACK"
  | .publish => "PUBLISH"
  | .publishIdle => "PUBLISH_IDLE"

/-- The rows of the operations `RS_MATCH` and `RE_MATCH` (30_encoding R84). -/
def isMatchRow : Instr → Bool
  | .sbArm _ => false
  | .sbSkip _ _ => false
  | .rsCapture _ _ => false
  | .rsMatch0 => true
  | .rsMatch1 => true
  | .rsMatch2 => true
  | .rsMatch3 => true
  | .rsMatch4 => true
  | .rsMatch5 => true
  | .rsAbort _ _ => false
  | .rdTent _ => false
  | .rdAppend _ _ => false
  | .reDone _ _ => false
  | .reMatch0 => true
  | .reMatch1 => true
  | .reMatch2 => true
  | .reMatch3 => true
  | .reMatch4 => true
  | .reMatch5 => true
  | .reBacktrack _ _ => false
  | .publish => false
  | .publishIdle => false

/-- A `SEL` row of the opcode table: its mnemonic, match and mask over the selector word, its group (the encoding of the
state it belongs to) and its priority within the group (30_encoding R83, R88). -/
structure SelRow where
  mnemonic : String
  pattern : SelectorWord
  mask : SelectorWord
  group : BitVec 2
  priority : Nat
  deriving DecidableEq, Repr

/-- `(sel & mask) == match` (30_encoding R83). -/
def selRowHits (r : SelRow) (w : SelectorWord) : Bool := w &&& r.mask == r.pattern

/-- The 20 `SEL` rows, copied from 30_encoding R83 and R84; the decoder does not use them. -/
def selRows : List SelRow :=
  [⟨"SB_ARM", 0x003C, 0x18FF, 0b00, 1⟩,
   ⟨"SB_SKIP", 0x0000, 0x1800, 0b00, 2⟩,
   ⟨"RS_CAPTURE", 0x0E00, 0x1E00, 0b01, 1⟩,
   ⟨"RS_MATCH_0", 0x083C, 0x1FFF, 0b01, 2⟩,
   ⟨"RS_MATCH_1", 0x0964, 0x1FFF, 0b01, 2⟩,
   ⟨"RS_MATCH_2", 0x0A61, 0x1FFF, 0b01, 2⟩,
   ⟨"RS_MATCH_3", 0x0B74, 0x1FFF, 0b01, 2⟩,
   ⟨"RS_MATCH_4", 0x0C61, 0x1FFF, 0b01, 2⟩,
   ⟨"RS_MATCH_5", 0x0D3E, 0x1FFF, 0b01, 2⟩,
   ⟨"RS_ABORT", 0x0800, 0x1800, 0b01, 3⟩] ++
  [⟨"RD_TENT", 0x103C, 0x18FF, 0b10, 1⟩,
   ⟨"RD_APPEND", 0x1000, 0x1800, 0b10, 2⟩,
   ⟨"RE_DONE", 0x1E00, 0x1E00, 0b11, 1⟩,
   ⟨"RE_MATCH_0", 0x183C, 0x1FFF, 0b11, 2⟩,
   ⟨"RE_MATCH_1", 0x192F, 0x1FFF, 0b11, 2⟩,
   ⟨"RE_MATCH_2", 0x1A64, 0x1FFF, 0b11, 2⟩,
   ⟨"RE_MATCH_3", 0x1B61, 0x1FFF, 0b11, 2⟩,
   ⟨"RE_MATCH_4", 0x1C74, 0x1FFF, 0b11, 2⟩,
   ⟨"RE_MATCH_5", 0x1D61, 0x1FFF, 0b11, 2⟩,
   ⟨"RE_BACKTRACK", 0x1800, 0x1800, 0b11, 3⟩]

/-- A row applies to a selector value when it hits and no row of its group with a smaller priority number hits
(30_encoding R88). -/
def selRowApplies (r : SelRow) (w : SelectorWord) : Bool :=
  selRowHits r w && selRows.all fun q => !(q.group == r.group && q.priority < r.priority && selRowHits q w)

end Sys2Proof
end

