-- ==== Sys2Proof/Machine/Operands.lean ====
section
/-! DEFINITION. What selects an operation: the encoding of the Decoder State and the selector word of a byte. -/

namespace Sys2Proof.Machine

/-- The encoding of the Decoder State (10_state R21; the spec's decision D3, log 12). -/
def stateBits : DecoderState → BitVec 2
  | .standby => 0b00
  | .readingStart => 0b01
  | .readingData => 0b10
  | .readingEnd => 0b11

/-- The Decoder State of an encoding; all four values are legal (10_state R21). -/
def stateOfBits (c : BitVec 2) : DecoderState :=
  if c = 0b00 then .standby
  else if c = 0b01 then .readingStart
  else if c = 0b10 then .readingData
  else .readingEnd

/-- `sel` of a `FEED(b)` step: `wi`, `ready` and `buf` do not take part (30_encoding R81). -/
def selectorOf (b : Byte) (s : State) : SelectorWord := selectorWord (stateBits s.state) s.mi b

/-- `cmd[0]` of a publisher step: `ready` alone (30_encoding R86). -/
def commandOf (s : State) : CommandWord := if s.ready then 1 else 0

end Sys2Proof.Machine
end

