-- ==== Sys2Proof/Machine/Loop.lean ====
section
/-! DEFINITION. The control loop and the input source: which operation comes next, and what the step takes from the
environment (42_control_loop R170 to R178).  The loop of R172 needs no state of its own: at every point it either feeds
(`ready = 0` and a byte is available) or publishes. -/

namespace Sys2Proof.Machine

/-- `rst` is asserted: the environment's next input is a reset (70_reset_and_hazards R230). -/
def resetPending (s : State) : Bool :=
  match s.env with
  | .reset :: _ => true
  | _ => false

/-- The head byte of the input stream if one is available (42_control_loop R177: `ByteAvailable()`, no side effect). -/
def availableByte (s : State) : Option Byte :=
  match s.env with
  | .byte b :: _ => some b
  | _ => none

/-- The word that selects the loop's next operation: the byte's selector word when the gate is open and a byte is
available, else the publisher's word (42_control_loop R170, R171, R172; 30_encoding R81, R86). -/
def fetchWord (s : State) : Word :=
  if s.ready then .cmd (commandOf s)
  else
    match availableByte s with
    | some b => .sel (selectorOf b s)
    | none => .cmd (commandOf s)

/-- What the loop's polling takes from the environment: nothing while the gate is closed; with the gate open the head
byte (`ReadByte()`, 42_control_loop R177) or the poll that found none. -/
def pollInput (s : State) : State := if s.ready then s else { s with env := s.env.tail }

/-- The state in which the loop's next operation is the one that `w` selects: the selecting registers and the gate set
from the word, the byte put at the head of the input stream, a poll without a byte for a publisher step (log 17). -/
def placeWord (w : Word) (s : State) : State :=
  match w with
  | .sel w => { s with state := stateOfBits (selState w), mi := selMi w, ready := false,
                       env := .byte (selByte w) :: s.env }
  | .cmd w => { s with ready := w == 1, env := .gap :: s.env }

end Sys2Proof.Machine
end

