-- ==== Sys2Proof/Machine/Step.lean ====
section
/-! DEFINITION. One step of the block, the bare transition function, and the placing of a word for the next step. -/

namespace Sys2Proof.Machine

/-- `Feed(b)`, the transition function applied whatever `ready` is (40_frame_decoder R111, R130;
70_reset_and_hazards R241).  The byte has already left the stream. -/
def feed (b : Byte) (s : State) : Host.Outcome State Fault Refusal := exec (decode (.sel (selectorOf b s))) s

/-- One step: a reset overrides everything (60_exceptions R203 (d)); otherwise the operation the control loop selects,
run after the loop has taken its byte (42_control_loop R171, R172). -/
def step (s : State) : Host.Outcome State Fault Refusal :=
  if resetPending s then .next (takeReset s.env.tail)
  else exec (decode (fetchWord s)) (pollInput s)

/-- The state in which the very next step runs the instruction of an opcode-table word (log 17). -/
def State.withFetchWord (s : State) (nbits w : Nat) : State :=
  match tableWord nbits w with
  | .ok word => placeWord word s
  | .error _ => s

end Sys2Proof.Machine
end

