-- ==== Sys2Proof/Machine/Signals.lean ====
section
/-! DEFINITION. The level signals of 42_control_loop R183 and R184 as views of State, at the granularity of steps: what
each is during the step that starts in the state.  Cycles inside a step are not modelled (70_reset R247, log 14). -/

namespace Sys2Proof.Machine

/-- `rst` (R183). -/
def rstSignal (s : State) : Bool := resetPending s

/-- `in_valid`, the value of `ByteAvailable()` (R183). -/
def inValidSignal (s : State) : Bool := (availableByte s).isSome

/-- `in_data`, the head byte, valid while `in_valid = 1` (R183). -/
def inDataSignal (s : State) : Option Byte := availableByte s

/-- `in_ready`: low whenever `ready = 1` or `rst = 1` (R183). -/
def inReadySignal (s : State) : Bool := !s.ready && !resetPending s

/-- `frame_ready`, a level equal to `ready` (R184). -/
def frameReadySignal (s : State) : Bool := s.ready

/-- The events that `px_valid`, `px_row`, `px_col` and `px_on` carry during the step, in order (R183). -/
def pixelSignals (s : State) : List PixelEvent :=
  if !resetPending s && s.ready then frameEvents s.buf else []

end Sys2Proof.Machine
end

