-- ==== Sys2Proof/Safety.lean ====
section
/-! DEFINITION. Runs, reachable states, the invariant of 10_state R35, and the terms the claims are stated in. -/

namespace Sys2Proof.Machine

/-- `n` steps, stopping at the first fault or refusal. -/
def run : Nat → State → Host.Outcome State Fault Refusal
  | 0, s => .next s
  | n + 1, s =>
    match step s with
    | .next t => run n t
    | .fault r => .fault r
    | .refused r => .refused r

/-- A state of some run from reset, whatever the environment does (42_control_loop R185: any bytes, any timing, reset at
any point). -/
def Reachable (s : State) : Prop := ∃ n env, run n { State.reset with env := env } = .next s

/-- The decoder is matching a marker: the states in which `mi` is read (10_state R22, R23). -/
def DecoderState.matching : DecoderState → Bool
  | .readingStart => true
  | .readingEnd => true
  | .standby => false
  | .readingData => false

/-- A frame is open: the states in which `wi` is read before it is overwritten (70_reset R245). -/
def DecoderState.filling : DecoderState → Bool
  | .readingData => true
  | .readingEnd => true
  | .standby => false
  | .readingStart => false

/-- I1 to I7 of 10_state R35, with the value of `mi` while a frame waits that 41_buffer_publisher R150 (d) gives. -/
structure ReachInv (s : State) : Prop where
  /-- I1. -/
  wiBound : s.wi.toNat ≤ 63
  /-- I2. -/
  miMatching : s.state.matching = true → 1 ≤ s.mi.toNat ∧ s.mi.toNat ≤ 6
  /-- I3. -/
  miBound : s.mi.toNat ≤ 6
  /-- I4, and R150 (d). -/
  readyMeansDone : s.ready = true → s.state = .standby ∧ s.wi = 0 ∧ s.mi = 6
  /-- I5 and I6. -/
  wiFilling : s.state.filling = true → 1 ≤ s.wi.toNat
  /-- I7. -/
  wiIdle : s.state.filling = false → s.wi = 0

/-- Where a match of the end marker stands after the bytes of `ps`, started from position `q`: 0 in `ReadingData`,
`1 ≤ q ≤ 6` in `ReadingEnd` with `mi = q`; `none` once `RE_DONE` is taken (40_frame_decoder R135, the matcher). -/
def endScan : Nat → List Byte → Option Nat
  | q, [] => some q
  | q, b :: ps =>
    if q = 0 then endScan (if b = 0x3C then 1 else 0) ps
    else if 6 ≤ q then none
    else if endMarker[q]? = some b then endScan (q + 1) ps
    else endScan 0 ps

/-- The wire form of a payload: `<data>`, the payload, `</data>` (30_encoding R93). -/
def frameBytes (payload : List Byte) : List Byte := startMarker ++ payload ++ endMarker

/-- Bytes as pending inputs of the environment, each available when the loop polls. -/
def asInputs (bs : List Byte) : List EnvInput := bs.map .byte

/-- What cell `a` holds after a frame with this payload, `old` before it (40_frame_decoder R134). -/
def payloadCell (payload : List Byte) (a : WriteIndex) (old : Byte) : Byte :=
  if a.toNat = 63 ∧ 64 ≤ payload.length then payload.getLast?.getD old
  else payload[a.toNat]?.getD old

/-- The pending inputs without the polls that find no byte. -/
def withoutGaps (env : List EnvInput) : List EnvInput := env.filter (fun e => e != .gap)

/-- The bytes among the pending inputs. -/
def inputBytes (env : List EnvInput) : List Byte :=
  env.filterMap fun e =>
    match e with
    | .byte b => some b
    | .gap => none
    | .reset => none

/-- The fewest bytes that complete a frame from here: 14 in `Standby` (six of the start marker, one of payload, seven of
the end marker), less those already matched (70_reset R232, 40_frame_decoder R138). -/
def bytesToFrame (s : State) : Nat :=
  match s.state with
  | .standby => 14
  | .readingStart => 14 - s.mi.toNat
  | .readingData => 7
  | .readingEnd => 7 - s.mi.toNat

/-- Nothing pending and no frame waiting: the only way a run ends (42_control_loop R173). -/
def Quiescent (s : State) : Prop := s.env = [] ∧ s.ready = false

/-- Equal up to the stale values of `mi` and `wi` (70_reset R245). -/
structure StaleEq (s t : State) : Prop where
  state : s.state = t.state
  ready : s.ready = t.ready
  buf : s.buf = t.buf
  trace : s.trace = t.trace
  env : s.env = t.env
  mi : s.state.matching = true → s.mi = t.mi
  wi : s.state.filling = true → s.wi = t.wi

/-- Equal in everything but the buffer and the display trace. -/
structure SameControl (s t : State) : Prop where
  state : s.state = t.state
  mi : s.mi = t.mi
  wi : s.wi = t.wi
  ready : s.ready = t.ready
  env : s.env = t.env

/-- `Append(v)` as 40_frame_decoder R110 writes it, for `feedAsOneFunction`. -/
def appendAsWritten (v : Byte) (s : State) : State :=
  let s' := { s with buf := s.buf.write s.wi v }
  if s.wi.toNat < 63 then { s' with wi := s.wi + 1 } else s'

/-- `EM[k]` by its table (00_scope R8). -/
def endByte : Nat → Byte
  | 0 => 0x3C
  | 1 => 0x2F
  | 2 => 0x64
  | 3 => 0x61
  | 4 => 0x74
  | 5 => 0x61
  | _ => 0x3E

/-- `SM[k]` by its table (00_scope R8). -/
def startByte : Nat → Byte
  | 0 => 0x3C
  | 1 => 0x64
  | 2 => 0x61
  | 3 => 0x74
  | 4 => 0x61
  | _ => 0x3E

/-- `for k in 0 .. n - 1: Append(EM[k])` (40_frame_decoder R130). -/
def replayAsWritten : Nat → State → State
  | 0, s => s
  | n + 1, s => appendAsWritten (endByte n) (replayAsWritten n s)

/-- The ten transition rules as the one function of 40_frame_decoder R130, written from its pseudocode without the
decoder, the dispatch or the meanings. -/
def feedAsOneFunction (b : Byte) (s : State) : State :=
  match s.state with
  | .standby =>
    if b = startByte 0 then { s with mi := 1, state := .readingStart } else s
  | .readingStart =>
    if 6 ≤ s.mi.toNat then { s with buf := s.buf.write 0 b, wi := 1, state := .readingData }
    else if b = startByte s.mi.toNat then { s with mi := s.mi + 1 }
    else { s with state := .standby }
  | .readingData =>
    if b = endByte 0 then { s with mi := 1, state := .readingEnd } else appendAsWritten b s
  | .readingEnd =>
    if 6 ≤ s.mi.toNat then { s with state := .standby, wi := 0, ready := true }
    else if b = endByte s.mi.toNat then { s with mi := s.mi + 1 }
    else { appendAsWritten b (replayAsWritten s.mi.toNat s) with state := .readingData }

end Sys2Proof.Machine
end

