-- ==== Sys2Proof/WellFormed.lean ====
section
/-! DEFINITION. Which terms of `Instr` are rows of the opcode table: the row's condition on its free selector bits. -/

namespace Sys2Proof

/-- The condition of the row on the selector bits it leaves free, the rows of higher priority in the group failing
(30_encoding R82, R83). -/
def Instr.wellFormed : Instr → Bool
  | .sbArm _ => true
  | .sbSkip _ b => b != Machine.markerOpen
  | .rsCapture mi _ => decide (Config.lenStartMarker ≤ mi.toNat)
  | .rsMatch0 => true
  | .rsMatch1 => true
  | .rsMatch2 => true
  | .rsMatch3 => true
  | .rsMatch4 => true
  | .rsMatch5 => true
  | .rsAbort mi b => decide (mi.toNat < Config.lenStartMarker) && !Machine.matchesStart mi b
  | .rdTent _ => true
  | .rdAppend _ b => b != Machine.markerOpen
  | .reDone mi _ => decide (Config.lenEndMarker - 1 ≤ mi.toNat)
  | .reMatch0 => true
  | .reMatch1 => true
  | .reMatch2 => true
  | .reMatch3 => true
  | .reMatch4 => true
  | .reMatch5 => true
  | .reBacktrack mi b => decide (mi.toNat < Config.lenEndMarker - 1) && !Machine.matchesEnd mi b
  | .publish => true
  | .publishIdle => true

end Sys2Proof
end

