-- ==== Sys2Proof/Certificates/Slice0/Obligations.lean ====
section
/-! DEFINITION. The statements for the provers.  Each docstring names the rule of `spec/` it formalises. -/

open Sys2Proof Sys2Proof.Machine

/-! ## Encodings -/

/-- 30_encoding R81 to R86: no bit of a well-formed operation's word is dropped by the decoder. -/
def Obligations.DecodeOfEncode : Prop :=
  ∀ i : Instr, i.wellFormed = true → decode (encode i) = i

/-- 30_encoding R82, R87: every word of either format decodes to a well-formed operation whose word it is. -/
def Obligations.EncodeOfDecode : Prop :=
  ∀ w : Word, (decode w).wellFormed = true ∧ encode (decode w) = w

/-- 30_encoding R82 with the rows of R83 and R84: on every selector value the decoder's operation is the first row of
the state's group whose condition holds, and exactly one row applies. -/
def Obligations.DecoderPicksTheFirstRow : Prop :=
  ∀ w : SelectorWord,
    (∃ r ∈ selRows, r.group = selState w ∧ r.mnemonic = mnemonicOf (decode (.sel w)) ∧ selRowHits r w = true ∧
      ∀ q ∈ selRows, q.group = selState w → selRowHits q w = true → q = r ∨ r.priority < q.priority) ∧
    ∀ r ∈ selRows, ∀ q ∈ selRows, selRowApplies r w = true → selRowApplies q w = true → r = q

/-- 30_encoding R83, R84, R86: words written out from the tables decode to the operations they stand for. -/
def Obligations.TableWordsDecode : Prop :=
  decode (.sel 0b00_101_00111100) = .sbArm 5 ∧
  decode (.sel 0b00_000_01100100) = .sbSkip 0 0x64 ∧
  decode (.sel 0b01_110_00111100) = .rsCapture 6 0x3C ∧
  decode (.sel 0x0964) = .rsMatch1 ∧
  decode (.sel 0x0D3E) = .rsMatch5 ∧
  decode (.sel 0b01_010_01100100) = .rsAbort 2 0x64 ∧
  decode (.sel 0b10_110_00111100) = .rdTent 6 ∧
  decode (.sel 0b10_110_00101111) = .rdAppend 6 0x2F ∧
  decode (.sel 0b11_110_00111110) = .reDone 6 0x3E ∧
  decode (.sel 0x192F) = .reMatch1 ∧
  decode (.sel 0x1D61) = .reMatch5 ∧
  decode (.sel 0b11_101_00100001) = .reBacktrack 5 0x21 ∧
  decode (.cmd 1) = .publish ∧
  decode (.cmd 0) = .publishIdle

/-- 30_encoding R81 (the spec's decision D22): the selector word of a `FEED(b)` step holds the state's encoding, `mi` and
`b`, and nothing else of the state. -/
def Obligations.SelectorWordFields : Prop :=
  ∀ (b : Byte) (s : State),
    selState (selectorOf b s) = stateBits s.state ∧ selMi (selectorOf b s) = s.mi ∧ selByte (selectorOf b s) = b ∧
    ∀ t : State, t.state = s.state → t.mi = s.mi → selectorOf b t = selectorOf b s

/-- 30_encoding R86: the publisher's two operations are selected by `ready` alone. -/
def Obligations.PublisherSelectedByReady : Prop :=
  ∀ s : State, decode (.cmd (commandOf s)) = if s.ready = true then .publish else .publishIdle

/-! ## The ten transitions: the result, the selection, and the gated step -/

/-- 40_frame_decoder R112. -/
def Obligations.SbArmBeginsStartMatch : Prop :=
  (∀ mi s, exec (.sbArm mi) s = .next { s with mi := 1, state := .readingStart }) ∧
  (∀ s, s.state = .standby → decode (.sel (selectorOf 0x3C s)) = .sbArm s.mi) ∧
  ∀ s rest, s.state = .standby → s.ready = false → s.env = .byte 0x3C :: rest →
    step s = .next { s with mi := 1, state := .readingStart, env := rest }

/-- 40_frame_decoder R113. -/
def Obligations.SbSkipDiscards : Prop :=
  (∀ mi b s, exec (.sbSkip mi b) s = .next s) ∧
  (∀ s b, s.state = .standby → b ≠ 0x3C → decode (.sel (selectorOf b s)) = .sbSkip s.mi b) ∧
  ∀ s b rest, s.state = .standby → b ≠ 0x3C → s.ready = false → s.env = .byte b :: rest →
    step s = .next { s with env := rest }

/-- 40_frame_decoder R116: any byte, also `'<'`, goes to cell 0 whatever `wi` held. -/
def Obligations.RsCaptureStoresFirstByte : Prop :=
  (∀ mi b s, ∃ t, exec (.rsCapture mi b) s = .next t ∧ t.state = .readingData ∧ t.wi = 1 ∧ t.mi = s.mi ∧
    t.ready = s.ready ∧ t.trace = s.trace ∧ t.env = s.env ∧ t.buf.read 0 = b ∧
    ∀ a, a ≠ 0 → t.buf.read a = s.buf.read a) ∧
  (∀ s b, s.state = .readingStart → 6 ≤ s.mi.toNat → decode (.sel (selectorOf b s)) = .rsCapture s.mi b) ∧
  ∀ s b rest, s.state = .readingStart → 6 ≤ s.mi.toNat → s.ready = false → s.env = .byte b :: rest →
    step s = exec (.rsCapture s.mi b) { s with env := rest }

/-- 40_frame_decoder R117, row by row of 30_encoding R84. -/
def Obligations.RsMatchAdvances : Prop :=
  (∀ s, (s.mi = 0 → exec .rsMatch0 s = .next { s with mi := 1 }) ∧
    (s.mi = 1 → exec .rsMatch1 s = .next { s with mi := 2 }) ∧
    (s.mi = 2 → exec .rsMatch2 s = .next { s with mi := 3 }) ∧
    (s.mi = 3 → exec .rsMatch3 s = .next { s with mi := 4 }) ∧
    (s.mi = 4 → exec .rsMatch4 s = .next { s with mi := 5 }) ∧
    (s.mi = 5 → exec .rsMatch5 s = .next { s with mi := 6 })) ∧
  ∀ s b, s.state = .readingStart → startMarker[s.mi.toNat]? = some b →
    (s.mi + 1).toNat = s.mi.toNat + 1 ∧ s.mi.toNat + 1 ≤ 6 ∧ feed b s = .next { s with mi := s.mi + 1 } ∧
    ∀ rest, s.ready = false → s.env = .byte b :: rest → step s = .next { s with mi := s.mi + 1, env := rest }

/-- 40_frame_decoder R118: the failing byte is not looked at again, also if it is `'<'`. -/
def Obligations.RsAbortReturnsToStandby : Prop :=
  (∀ mi b s, exec (.rsAbort mi b) s = .next { s with state := .standby }) ∧
  (∀ s b, s.state = .readingStart → s.mi.toNat < 6 → startMarker[s.mi.toNat]? ≠ some b →
    decode (.sel (selectorOf b s)) = .rsAbort s.mi b) ∧
  ∀ s b rest, s.state = .readingStart → s.mi.toNat < 6 → startMarker[s.mi.toNat]? ≠ some b → s.ready = false →
    s.env = .byte b :: rest → step s = .next { s with state := .standby, env := rest }

/-- 40_frame_decoder R122, at every value of `wi`. -/
def Obligations.RdTentHoldsBack : Prop :=
  (∀ mi s, exec (.rdTent mi) s = .next { s with mi := 1, state := .readingEnd }) ∧
  (∀ s, s.state = .readingData → decode (.sel (selectorOf 0x3C s)) = .rdTent s.mi) ∧
  ∀ s rest, s.state = .readingData → s.ready = false → s.env = .byte 0x3C :: rest →
    step s = .next { s with mi := 1, state := .readingEnd, env := rest }

/-- 40_frame_decoder R123, with what R110 says of `Append`: the byte goes to the cell at the old `wi`, also at 63, and
`wi` saturates. -/
def Obligations.RdAppendWritesAndSaturates : Prop :=
  (∀ mi b s, ∃ t, exec (.rdAppend mi b) s = .next t ∧ t.state = s.state ∧ t.mi = s.mi ∧ t.ready = s.ready ∧
    t.trace = s.trace ∧ t.env = s.env ∧ t.wi.toNat = min 63 (s.wi.toNat + 1) ∧ t.buf.read s.wi = b ∧
    ∀ a, a ≠ s.wi → t.buf.read a = s.buf.read a) ∧
  (∀ s b, s.state = .readingData → b ≠ 0x3C → decode (.sel (selectorOf b s)) = .rdAppend s.mi b) ∧
  ∀ s b rest, s.state = .readingData → b ≠ 0x3C → s.ready = false → s.env = .byte b :: rest →
    step s = exec (.rdAppend s.mi b) { s with env := rest }

/-- 40_frame_decoder R126: any byte completes the frame once six bytes have been matched, the gate closes
until a `PUBLISH`, and no other operation sets the flag. -/
def Obligations.ReDoneCompletesFrame : Prop :=
  (∀ mi b s, exec (.reDone mi b) s = .next { s with state := .standby, wi := 0, ready := true }) ∧
  (∀ s b, s.state = .readingEnd → 6 ≤ s.mi.toNat → decode (.sel (selectorOf b s)) = .reDone s.mi b) ∧
  (∀ s b rest, s.state = .readingEnd → 6 ≤ s.mi.toNat → s.ready = false → s.env = .byte b :: rest →
    ∃ t, step s = .next t ∧ t = { s with state := .standby, wi := 0, ready := true, env := rest } ∧
      (resetPending t = false → step t = exec .publish t)) ∧
  ∀ i s t, exec i s = .next t → s.ready = false → t.ready = true → ∃ mi b, i = .reDone mi b

/-- 40_frame_decoder R127, row by row of 30_encoding R84; `EM[6]` is never compared. -/
def Obligations.ReMatchAdvances : Prop :=
  (∀ s, (s.mi = 0 → exec .reMatch0 s = .next { s with mi := 1 }) ∧
    (s.mi = 1 → exec .reMatch1 s = .next { s with mi := 2 }) ∧
    (s.mi = 2 → exec .reMatch2 s = .next { s with mi := 3 }) ∧
    (s.mi = 3 → exec .reMatch3 s = .next { s with mi := 4 }) ∧
    (s.mi = 4 → exec .reMatch4 s = .next { s with mi := 5 }) ∧
    (s.mi = 5 → exec .reMatch5 s = .next { s with mi := 6 })) ∧
  ∀ s b, s.state = .readingEnd → s.mi.toNat < 6 → endMarker[s.mi.toNat]? = some b →
    (s.mi + 1).toNat = s.mi.toNat + 1 ∧ feed b s = .next { s with mi := s.mi + 1 } ∧
    ∀ rest, s.ready = false → s.env = .byte b :: rest → step s = .next { s with mi := s.mi + 1, env := rest }

/-- 40_frame_decoder R128: `EM[0], …, EM[mi-1]` and then the failing byte go to the cells from the old `wi` on in that
order, all bytes past cell 62 to cell 63, which keeps the last; `mi` and `ready` keep their values.  R128 gives the
operation for `mi < 6`; that the first clause also holds at `mi` 6 and 7, where no selector chooses the operation, is the
model's reading of the pseudocode (DEDUCED, log 8). -/
def Obligations.ReBacktrackReplays : Prop :=
  (∀ mi b s, ∃ t, exec (.reBacktrack mi b) s = .next t ∧ t.state = .readingData ∧ t.mi = s.mi ∧ t.ready = s.ready ∧
    t.trace = s.trace ∧ t.env = s.env ∧ t.wi.toNat = min 63 (s.wi.toNat + s.mi.toNat + 1) ∧
    ∀ a : WriteIndex, t.buf.read a =
      if a.toNat < s.wi.toNat then s.buf.read a
      else if a.toNat = 63 ∧ 63 ≤ s.wi.toNat + s.mi.toNat then b
      else if a.toNat < s.wi.toNat + s.mi.toNat then endByte (a.toNat - s.wi.toNat)
      else if a.toNat = s.wi.toNat + s.mi.toNat then b
      else s.buf.read a) ∧
  (∀ s b, s.state = .readingEnd → s.mi.toNat < 6 → endMarker[s.mi.toNat]? ≠ some b →
    decode (.sel (selectorOf b s)) = .reBacktrack s.mi b) ∧
  ∀ s b rest, s.state = .readingEnd → s.mi.toNat < 6 → endMarker[s.mi.toNat]? ≠ some b → s.ready = false →
    s.env = .byte b :: rest → step s = exec (.reBacktrack s.mi b) { s with env := rest }

/-- 40_frame_decoder R130: the decoder, the dispatch and the ten meanings are together the one function of the rule. -/
def Obligations.FeedIsTheOneFunction : Prop :=
  ∀ (b : Byte) (s : State), feed b s = .next (feedAsOneFunction b s)

/-- 40_frame_decoder R136 (the spec's decision D13): register values that cannot occur from reset. -/
def Obligations.UnreachableRegisterValues : Prop :=
  ∀ (b : Byte) (s : State),
    (s.state = .readingStart → s.mi = 0 → feed 0x3C s = .next { s with mi := 1 }) ∧
    (s.state = .readingStart → s.mi = 0 → b ≠ 0x3C → feed b s = .next { s with state := .standby }) ∧
    (s.state = .readingStart → s.mi = 7 → feed b s = exec (.rsCapture 7 b) s) ∧
    (s.state = .readingEnd → s.mi = 0 → feed 0x3C s = .next { s with mi := 1 }) ∧
    (s.state = .readingEnd → s.mi = 0 → b ≠ 0x3C → feed b s = .next { append b s with state := .readingData }) ∧
    (s.state = .readingEnd → s.mi = 7 → feed b s = exec (.reDone 7 b) s) ∧
    (s.state = .readingData → s.wi = 0 → b ≠ 0x3C →
      feed b s = .next { s with buf := s.buf.write 0 b, wi := 1 })

/-- 70_reset R241 (the spec's decision D15): the bare transition function does the same with the flag set, and leaves it
set. -/
def Obligations.BareFunctionIgnoresTheFlag : Prop :=
  ∀ (b : Byte) (s t : State), feed b { s with ready := false } = .next t →
    feed b { s with ready := true } = .next { t with ready := true }

/-! ## The publisher -/

/-- 41_buffer_publisher R150: 64 events in row-major order, the flag cleared, nothing else written; and on a gated run
the state on entry.  R150 gives the operation for `ready = 1`; that the first clause also holds with `ready = 0`, where no
selector chooses it, is the model's reading of the pseudocode (DEDUCED, log 8). -/
def Obligations.PublishRendersEveryCell : Prop :=
  (∀ s, ∃ t, exec .publish s = .next t ∧ t = { s with ready := false, trace := t.trace } ∧
    t.trace.length = s.trace.length + 64 ∧ s.trace <+: t.trace ∧
    ∀ k : WriteIndex, t.trace[s.trace.length + k.toNat]? =
      some ⟨k.extractLsb' 3 3, k.extractLsb' 0 3, decide (127 ≤ (s.buf.read k).toNat)⟩) ∧
  (∀ s, s.ready = true → resetPending s = false → step s = exec .publish s) ∧
  ∀ s, Reachable s → s.ready = true → s.state = .standby ∧ s.mi = 6 ∧ s.wi = 0

/-- 41_buffer_publisher R151 with 42_control_loop R172, R175: with the flag clear the publisher changes nothing and emits
nothing, in any state of the decoder, any number of times.  That a poll without a byte is an entry of `env` which the step
removes, and that the empty list means no byte, is the model's choice (log 2). -/
def Obligations.PublishIdleDoesNothing : Prop :=
  (∀ s, exec .publishIdle s = .next s) ∧
  (∀ s, s.ready = false → s.env = [] → step s = .next s) ∧
  ∀ s n rest, s.ready = false → s.env = List.replicate n .gap ++ rest → run n s = .next { s with env := rest }

/-- 41_buffer_publisher R152 (a), (b): the threshold, by value and by bits, and the row and column. -/
def Obligations.PublisherArithmetic : Prop :=
  (∀ v : Byte, (pixelOn v = true ↔ 127 ≤ v.toNat) ∧ (pixelOn v = false ↔ v.toNat ≤ 126) ∧
    pixelOn v = (v.getLsbD 7 || (v.extractLsb' 0 7 == 0b1111111))) ∧
  ∀ i : WriteIndex, (rowOf i).toNat = i.toNat / 8 ∧ (colOf i).toNat = i.toNat % 8 ∧
    rowOf i = i.extractLsb' 3 3 ∧ colOf i = i.extractLsb' 0 3

/-- 41_buffer_publisher R154: two states whose cells fall on the same side of the threshold publish the same events. -/
def Obligations.FrameDependsOnThresholdOnly : Prop :=
  ∀ s t s' t', (∀ a, (127 ≤ (s.buf.read a).toNat ↔ 127 ≤ (t.buf.read a).toNat)) →
    exec .publish s = .next s' → exec .publish t = .next t' →
    s'.trace.drop s.trace.length = t'.trace.drop t.trace.length

/-! ## The control loop, the gate and reset -/

/-- 42_control_loop R171, R172: what one step runs, and what it takes from the environment.  That the environment's
inputs stand in `env`, and that a poll without a byte is an entry of it, is the model's choice (log 1, log 2). -/
def Obligations.StepRunsTheDecodedOperation : Prop :=
  ∀ s : State,
    (resetPending s = false → step s = exec (decode (fetchWord s)) (pollInput s)) ∧
    (s.ready = true → resetPending s = false → step s = exec .publish s) ∧
    (∀ b rest, s.ready = false → s.env = .byte b :: rest →
      step s = exec (decode (.sel (selectorOf b s))) { s with env := rest }) ∧
    (∀ rest, s.ready = false → s.env = .gap :: rest → step s = exec .publishIdle { s with env := rest }) ∧
    (s.ready = false → s.env = [] → step s = exec .publishIdle s)

/-- The host's placing of a word, for both formats (log 17, the model's choice): the very next step runs its operation,
with nothing of the environment's pending inputs lost. -/
def Obligations.PlacedWordRuns : Prop :=
  (∀ (s : State) (w : SelectorWord), step (s.withFetchWord 16 w.toNat) =
    exec (decode (.sel w)) { s with state := stateOfBits (selState w), mi := selMi w, ready := false }) ∧
  (∀ s : State, step (s.withFetchWord 8 1) = exec .publish { s with ready := true, env := .gap :: s.env }) ∧
  ∀ s : State, step (s.withFetchWord 8 0) = exec .publishIdle { s with ready := false }

/-- 42_control_loop R170 and 20_memory R60 (b): while the flag is set no byte is fed and no cell changes; the step is a
`PUBLISH`, which opens the gate. -/
def Obligations.GateHoldsInputUntilPublish : Prop :=
  ∀ s t : State, s.ready = true → resetPending s = false → step s = .next t →
    t.env = s.env ∧ t.ready = false ∧ t.state = s.state ∧ t.mi = s.mi ∧ t.wi = s.wi ∧
    (∀ a, t.buf.read a = s.buf.read a) ∧ t.trace = s.trace ++ frameEvents s.buf

/-- 70_reset R230, 60_exceptions R203 (d) (the spec's decision D10): a reset overrides whatever would have been done,
consumes no byte and emits no event. -/
def Obligations.ResetOverridesEverything : Prop :=
  ∀ (s : State) (rest : List EnvInput), s.env = .reset :: rest → step s = .next { State.reset with env := rest }

/-- 10_state R40, R42: the reset values of the Decoder State and the Write Index. -/
def Obligations.ResetStateAndWriteIndex : Prop :=
  State.reset.state = .standby ∧ stateBits State.reset.state = 0b00 ∧ State.reset.wi = 0

/-- 10_state R43 (the spec's decision D4), R44, R45 (decision D10): the flag clear, every cell zero, the display trace
empty. -/
def Obligations.ResetFlagBufferAndTrace : Prop :=
  State.reset.ready = false ∧ (∀ a, State.reset.buf.read a = 0x00) ∧ State.reset.trace = []

/-- 10_state R41: reset leaves `mi = 0`, and on a run from reset `mi` is 0 only as long as nothing but the environment's
inputs has changed since a reset. -/
def Obligations.MarkerIndexZeroOnlyAtReset : Prop :=
  State.reset.mi = 0 ∧ ∀ s, Reachable s → s.mi = 0 → s = { State.reset with env := s.env }

/-- 60_exceptions R200: the type of fault reasons is empty, and every operation and every step returns a next state. -/
def Obligations.NothingEverStops : Prop :=
  (Fault → False) ∧ (∀ i s, ∃ t, exec i s = .next t) ∧ (∀ b s, ∃ t, feed b s = .next t) ∧ (∀ s, ∃ t, step s = .next t) ∧
  ∀ n s, ∃ t, run n s = .next t

/-- 42_control_loop R183 (the spec's decision D7): a step consumes the head byte exactly when `in_valid` and `in_ready`
are 1, `frame_ready` is the flag, and the pixel signals carry the events of the step.  Signals as levels per step, a step's
events as one list and `in_valid` under `rst` are the model's choice (log 14); that a reset at run time empties the trace
(10_state R45, decision D10; 70_reset R230) is DEDUCED (log 3). -/
def Obligations.HandshakeConsumesOneByte : Prop :=
  ∀ s t : State, step s = .next t →
    (inValidSignal s = true ∧ inReadySignal s = true →
      ∃ b, inDataSignal s = some b ∧ s.env = .byte b :: t.env) ∧
    (¬(inValidSignal s = true ∧ inReadySignal s = true) → inputBytes t.env = inputBytes s.env) ∧
    (inReadySignal s = true → rstSignal s = false ∧ frameReadySignal s = false) ∧
    (rstSignal s = false → t.trace = s.trace ++ pixelSignals s) ∧
    (rstSignal s = true → t.trace = [] ∧ pixelSignals s = [])

/-! ## Frames, invariants and whole-machine rules -/

/-- 10_state R46: what no operation writes but those the table names. -/
def Obligations.OperationFrames : Prop :=
  ∀ (i : Instr) (s t : State), exec i s = .next t →
    t.env = s.env ∧
    (i ≠ .publish → t.trace = s.trace) ∧
    ((∀ mi b, i ≠ .reDone mi b) → i ≠ .publish → t.ready = s.ready) ∧
    ((∀ mi, i ≠ .sbArm mi) → (∀ mi, i ≠ .rdTent mi) → isMatchRow i = false → t.mi = s.mi) ∧
    ((∀ mi b, i ≠ .rsCapture mi b) → (∀ mi b, i ≠ .rdAppend mi b) → (∀ mi b, i ≠ .reDone mi b) →
      (∀ mi b, i ≠ .reBacktrack mi b) → t.wi = s.wi) ∧
    ((∀ mi, i ≠ .sbArm mi) → (∀ mi b, i ≠ .rsCapture mi b) → (∀ mi b, i ≠ .rsAbort mi b) → (∀ mi, i ≠ .rdTent mi) →
      (∀ mi b, i ≠ .reDone mi b) → (∀ mi b, i ≠ .reBacktrack mi b) → t.state = s.state) ∧
    ((∀ mi b, i ≠ .rsCapture mi b) → (∀ mi b, i ≠ .rdAppend mi b) → (∀ mi b, i ≠ .reBacktrack mi b) →
      ∀ a, t.buf.read a = s.buf.read a)

/-- 20_memory R50, R54 and the canonical form of the buffer: every step keeps it (the form is the model's, log 6). -/
def Obligations.StepKeepsCanonicalBuffer : Prop :=
  ∀ s t : State, s.buf.wf → step s = .next t → t.buf.wf

/-- 10_state R35 (and 41_buffer_publisher R150 (d) for `mi = 6` in `ReachInv`): the invariants I1 to I7 are kept by every
step, from every state that has them. -/
def Obligations.StepKeepsReachInv : Prop :=
  ∀ s t : State, ReachInv s → step s = .next t → ReachInv t

/-- 10_state R35 (and 41_buffer_publisher R150 (d) for `mi = 6` in `ReachInv`): the invariants hold after reset, whatever
the environment has pending.  The canonical form of the buffer, which holds too, is the model's choice (log 6). -/
def Obligations.ReachInvAfterReset : Prop :=
  ∀ env : List EnvInput, ReachInv { State.reset with env := env } ∧ State.reset.buf.wf

/-- 10_state R35, R23 (and 41_buffer_publisher R150 (d) for `mi = 6` in `ReachInv`): in every reachable state, the
invariants I1 to I7, and `mi` never reaches 7.  The canonical form of the buffer, which holds too, is the model's choice
(log 6). -/
def Obligations.ReachableStatesAreBounded : Prop :=
  ∀ s : State, Reachable s → ReachInv s ∧ s.mi ≠ 7 ∧ s.buf.wf

/-- 10_state R26, 20_memory R62: only `RE_DONE` sets the flag and always finds it clear; only `PUBLISH` and reset clear
it. -/
def Obligations.FlagHasOneSetterAndOneClearer : Prop :=
  ∀ s t : State, step s = .next t →
    (s.ready = false → t.ready = true → resetPending s = false ∧ ∃ mi b, decode (fetchWord s) = .reDone mi b) ∧
    (s.ready = true → t.ready = false → resetPending s = true ∨ decode (fetchWord s) = .publish) ∧
    ((∃ mi b, decode (fetchWord s) = .reDone mi b) → s.ready = false) ∧
    (decode (fetchWord s) = .publish → s.ready = true)

/-- 60_exceptions R207, 40_frame_decoder R134 (d): an open frame is left only by `RE_DONE`, which sets the flag, or by a
reset. -/
def Obligations.OpenFrameEndsOnlyByDoneOrReset : Prop :=
  ∀ s t : State, s.state.filling = true → step s = .next t → t.state.filling = false →
    resetPending s = true ∨
      (s.state = .readingEnd ∧ 6 ≤ s.mi.toNat ∧ s.ready = false ∧ t.state = .standby ∧ t.ready = true)

/-- 20_memory R63, R55: the contents of the buffer never influence the decoder. -/
def Obligations.BufferNeverSteersTheDecoder : Prop :=
  ∀ (n : Nat) (s t s' t' : State), SameControl s t → run n s = .next s' → run n t = .next t' → SameControl s' t'

/-- 70_reset R245: runs that differ only in stale values of `mi` and `wi` behave identically. -/
def Obligations.StaleRegistersDoNotMatter : Prop :=
  ∀ (n : Nat) (s t s' t' : State), StaleEq s t → run n s = .next s' → run n t = .next t' → StaleEq s' t'

/-- 42_control_loop R174: the state the block comes to rest in and the display trace do not depend on when bytes become
available; they are functions of the pending bytes and resets alone.  Polls without a byte as `gap` entries are the model's
choice (log 2), and so is the loop as a deterministic step (log 15). -/
def Obligations.ScheduleDoesNotMatter : Prop :=
  ∀ (s : State) (env₁ env₂ : List EnvInput), withoutGaps env₁ = withoutGaps env₂ →
    ∀ n₁ n₂ t₁ t₂, run n₁ { s with env := env₁ } = .next t₁ → run n₂ { s with env := env₂ } = .next t₂ →
      Quiescent t₁ → Quiescent t₂ → t₁ = t₂

/-- 42_control_loop R173: the block comes to rest, every pending input met, within a bound; and where no reset is pending
every completed frame is published: each state of the run with the flag set is followed by a `PUBLISH` whose events are
in the final trace, and no event is lost.  The exact schedule (log 15), the finite list (log 1) and hence the bound, one
step for each input and one for each frame, are the model's. -/
def Obligations.PendingInputIsDrained : Prop :=
  ∀ s : State, ∃ n t, n ≤ 2 * s.env.length + 1 ∧ run n s = .next t ∧ Quiescent t ∧
    (EnvInput.reset ∉ s.env →
      s.trace <+: t.trace ∧
      ∀ k u, run k s = .next u → u.ready = true →
        run (k + 1) s = .next { u with ready := false, trace := u.trace ++ frameEvents u.buf } ∧
        u.trace ++ frameEvents u.buf <+: t.trace)

/-- 70_reset R232: on a run from reset, of any stream, no frame is complete and nothing is published as long as fewer than
14 bytes have been fed; the bytes fed are those pending at the start and no longer. -/
def Obligations.FirstFrameNeedsFourteenBytes : Prop :=
  ∀ (env : List EnvInput) (n : Nat) (t : State), run n { State.reset with env := env } = .next t →
    (inputBytes env).length < (inputBytes t.env).length + 14 → t.ready = false ∧ t.trace = []

/-- 70_reset R232 as a property that every step keeps, from every state that has it: with the flag clear and nothing
published, it takes `bytesToFrame` more bytes to complete a frame.  `c` is how many of the pending bytes are left out of
the count, so streams of every length are covered: up to the point where `c` bytes are left, fewer than `bytesToFrame`
lie before them. -/
def Obligations.StepCountsBytesToTheFirstFrame : Prop :=
  ∀ (c : Nat) (s t : State),
    s.ready = false → s.trace = [] → (inputBytes s.env).length < bytesToFrame s + c → step s = .next t →
    c ≤ (inputBytes t.env).length →
    t.ready = false ∧ t.trace = [] ∧ (inputBytes t.env).length < bytesToFrame t + c

/-- 40_frame_decoder R134 (a), (b), R135, 20_memory R58: a frame of any payload length at least 1 whose payload neither
completes a frame nor is inside a tentative match when it ends sets the flag on its last byte, and the buffer takes the
payload as far as it has cells: bytes 1 to 63 in cells 0 to 62, cell 63 the last byte of a payload of 64 or more (bytes 64
to `L - 1` of a longer one are lost), the other cells what they held. -/
def Obligations.FrameFillsTheBuffer : Prop :=
  ∀ (s : State) (p : Byte) (ps : List Byte) (rest : List EnvInput),
    s.state = .standby → s.ready = false → s.env = asInputs (frameBytes (p :: ps)) ++ rest → endScan 0 ps = some 0 →
    ∃ t, run (13 + (p :: ps).length) s = .next t ∧ t.state = .standby ∧ t.mi = 6 ∧ t.wi = 0 ∧ t.ready = true ∧
      t.trace = s.trace ∧ t.env = rest ∧ ∀ a, t.buf.read a = payloadCell (p :: ps) a (s.buf.read a)

/-- 40_frame_decoder R135: the flag is first set on the last byte of the frame exactly for the payloads that meet the
rule's conditions (i) and (ii). -/
def Obligations.FrameCompletesOnItsLastByte : Prop :=
  ∀ (s : State) (p : Byte) (ps : List Byte) (rest : List EnvInput),
    s.state = .standby → s.ready = false → s.env = asInputs (frameBytes (p :: ps)) ++ rest →
    (((∀ k, k < 13 + (p :: ps).length → ∃ t, run k s = .next t ∧ t.ready = false) ∧
      ∃ t, run (13 + (p :: ps).length) s = .next t ∧ t.ready = true) ↔ endScan 0 ps = some 0)

/-- 40_frame_decoder R135, the simple premise, with R134 and 41_buffer_publisher R150, R154: from `Standby` with the flag
clear, a frame whose payload has no `'<'` after its first byte sets the flag on its last byte and not before, the buffer
takes the payload as far as it has cells, and unless a reset comes the next step shows each cell so filled on the
display, by the threshold. -/
def Obligations.FrameWithoutOpenerIsDisplayed : Prop :=
  ∀ (s : State) (p : Byte) (ps : List Byte) (rest : List EnvInput),
    s.state = .standby → s.ready = false → s.env = asInputs (frameBytes (p :: ps)) ++ rest → (0x3C : Byte) ∉ ps →
    (∀ k, k < 13 + (p :: ps).length → ∃ u, run k s = .next u ∧ u.ready = false) ∧
    ∃ t, run (13 + (p :: ps).length) s = .next t ∧ t.state = .standby ∧ t.mi = 6 ∧ t.wi = 0 ∧ t.ready = true ∧
      t.trace = s.trace ∧ t.env = rest ∧ (∀ a, t.buf.read a = payloadCell (p :: ps) a (s.buf.read a)) ∧
      (resetPending t = false → ∃ u, step t = .next u ∧ u.ready = false ∧ u.env = rest ∧
        u.trace.length = s.trace.length + 64 ∧
        ∀ a : WriteIndex, u.trace[s.trace.length + a.toNat]? =
          some ⟨a.extractLsb' 3 3, a.extractLsb' 0 3,
            decide (127 ≤ (payloadCell (p :: ps) a (s.buf.read a)).toNat)⟩)
end

