-- ==== Sys2Proof/Laws/Decode.lean ====
section
/-! SUPPORT. The fields of the selector word, and the decoder said group by group (30_encoding R81 to R84). -/

namespace Sys2Proof

@[simp] theorem selState_selectorWord (st : BitVec 2) (mi : MarkerIndex) (b : Byte) :
    selState (selectorWord st mi b) = st := by
  ext i hi
  simp only [selState, selectorWord, BitVec.getElem_extractLsb', BitVec.getLsbD_append]
  have h1 : ¬ 11 + i < 8 := by omega
  have h2 : ¬ 11 + i - 8 < 3 := by omega
  have h3 : 11 + i - 8 - 3 = i := by omega
  simp [h1, h2, h3, BitVec.getLsbD_eq_getElem hi]

@[simp] theorem selMi_selectorWord (st : BitVec 2) (mi : MarkerIndex) (b : Byte) :
    selMi (selectorWord st mi b) = mi := by
  ext i hi
  simp only [selMi, selectorWord, BitVec.getElem_extractLsb', BitVec.getLsbD_append]
  have h1 : ¬ 8 + i < 8 := by omega
  have h3 : 8 + i - 8 = i := by omega
  simp [h1, h3, hi]

@[simp] theorem selByte_selectorWord (st : BitVec 2) (mi : MarkerIndex) (b : Byte) :
    selByte (selectorWord st mi b) = b := by
  ext i hi
  simp only [selByte, selectorWord, BitVec.getElem_extractLsb', BitVec.getLsbD_append]
  simp [hi]

/-- A selector word is its three fields put together: no bit is outside them. -/
theorem selectorWord_of_fields (w : SelectorWord) : selectorWord (selState w) (selMi w) (selByte w) = w := by
  ext i hi
  simp only [selectorWord, ← BitVec.getLsbD_eq_getElem, BitVec.getLsbD_append, selState, selMi, selByte,
    BitVec.getLsbD_extractLsb']
  by_cases h1 : i < 8
  · simp [h1]
  · by_cases h2 : i - 8 < 3
    · have : 8 + (i - 8) = i := by omega
      simp [h1, h2, this]
    · have h3 : i - 8 - 3 < 2 := by omega
      have : 11 + (i - 8 - 3) = i := by omega
      simp [h1, h2, h3, this]

/-- Decoding a selector word is decoding its fields. -/
@[simp] theorem decode_sel_selectorWord (st : BitVec 2) (mi : MarkerIndex) (b : Byte) :
    decode (.sel (selectorWord st mi b)) = decodeFields st mi b := by simp [decode]

@[simp] theorem decode_cmd_one : decode (.cmd 1) = .publish := rfl
@[simp] theorem decode_cmd_zero : decode (.cmd 0) = .publishIdle := rfl

@[simp] theorem decodeFields_standby (mi : MarkerIndex) (b : Byte) : decodeFields 0b00 mi b = decodeStandby mi b := rfl
@[simp] theorem decodeFields_readingStart (mi : MarkerIndex) (b : Byte) :
    decodeFields 0b01 mi b = decodeReadingStart mi b := rfl
@[simp] theorem decodeFields_readingData (mi : MarkerIndex) (b : Byte) :
    decodeFields 0b10 mi b = decodeReadingData mi b := rfl
@[simp] theorem decodeFields_readingEnd (mi : MarkerIndex) (b : Byte) :
    decodeFields 0b11 mi b = decodeReadingEnd mi b := rfl

namespace Machine

@[simp] theorem stateOfBits_stateBits (d : DecoderState) : stateOfBits (stateBits d) = d := by cases d <;> rfl

@[simp] theorem stateBits_stateOfBits (c : BitVec 2) : stateBits (stateOfBits c) = c := by
  revert c
  decide

/-- The operation of a `FEED(b)` step, by the group of the current state (30_encoding R82). -/
theorem decode_selectorOf (b : Byte) (s : State) :
    decode (.sel (selectorOf b s)) =
      match s.state with
      | .standby => decodeStandby s.mi b
      | .readingStart => decodeReadingStart s.mi b
      | .readingData => decodeReadingData s.mi b
      | .readingEnd => decodeReadingEnd s.mi b := by
  unfold selectorOf
  rw [decode_sel_selectorWord]
  cases s.state <;> rfl

end Machine

end Sys2Proof
end

