-- ==== Sys2Proof/Laws/Memory.lean ====
section
/-! SUPPORT. The laws of the pixel buffer: read after write, the canonical form, and that it makes equal buffers equal. -/

namespace Sys2Proof.Machine

@[simp] theorem cellAt_nil (a : Nat) : cellAt [] a = unlistedByte := rfl

@[simp] theorem cellAt_cons (c : Host.Cell) (m : Memory) (a : Nat) :
    cellAt (c :: m) a = if c.1 = a then c.2 else cellAt m a := rfl

@[simp] theorem read_nil (a : WriteIndex) : Memory.read [] a = 0 := rfl

theorem cellAt_eraseCell_self (m : Memory) (a : Nat) : cellAt (eraseCell a m) a = unlistedByte := by
  induction m with
  | nil => rfl
  | cons c m ih =>
    by_cases h : c.1 = a
    · simpa [eraseCell, h] using ih
    · simpa [eraseCell, h] using ih

theorem cellAt_eraseCell_of_ne (m : Memory) {a x : Nat} (h : x ≠ a) : cellAt (eraseCell a m) x = cellAt m x := by
  induction m with
  | nil => rfl
  | cons c m ih =>
    have ih : cellAt (List.filter (fun c => c.1 != a) m) x = cellAt m x := ih
    by_cases hc : c.1 = a
    · have : c.1 ≠ x := fun e => h (e.symm.trans hc)
      simp [eraseCell, hc, ih, h.symm]
    · simp [eraseCell, hc, ih]

theorem cellAt_insertCell_self (m : Memory) (a : Nat) (v : Byte) (h : ∀ c ∈ m, c.1 ≠ a) :
    cellAt (insertCell a v m) a = v := by
  induction m with
  | nil => simp [insertCell]
  | cons c m ih =>
    have hc := h c (by simp)
    have ih := ih fun d hd => h d (by simp [hd])
    by_cases hlt : c.1 < a <;> simp [insertCell, hlt, hc, ih]

theorem cellAt_insertCell_of_ne (m : Memory) {a x : Nat} (v : Byte) (h : x ≠ a) :
    cellAt (insertCell a v m) x = cellAt m x := by
  induction m with
  | nil => simp [insertCell, h.symm]
  | cons c m ih => by_cases hlt : c.1 < a <;> simp [insertCell, hlt, ih, h.symm]

theorem mem_eraseCell {a : Nat} {m : Memory} {c : Host.Cell} : c ∈ eraseCell a m ↔ c ∈ m ∧ c.1 ≠ a := by
  simp [eraseCell]

/-- A write puts its value in its cell (20_memory R57). -/
@[simp] theorem read_write_self (m : Memory) (a : WriteIndex) (v : Byte) : (m.write a v).read a = v := by
  unfold Memory.write Memory.read
  split
  · rename_i h
    rw [cellAt_eraseCell_self, h]
  · exact cellAt_insertCell_self _ _ _ fun c hc => (mem_eraseCell.1 hc).2

/-- A write has no effect beyond its cell (20_memory R57). -/
theorem read_write_of_ne (m : Memory) {a x : WriteIndex} (v : Byte) (h : x ≠ a) : (m.write a v).read x = m.read x := by
  have h' : x.toNat ≠ a.toNat := fun e => h (BitVec.eq_of_toNat_eq e)
  unfold Memory.write Memory.read
  split
  · exact cellAt_eraseCell_of_ne m h'
  · rw [cellAt_insertCell_of_ne _ v h', cellAt_eraseCell_of_ne m h']

/-- The cell at any address after a write. -/
theorem read_write (m : Memory) (a x : WriteIndex) (v : Byte) :
    (m.write a v).read x = if x = a then v else m.read x := by
  split
  · rename_i h
    rw [h, read_write_self]
  · rename_i h
    exact read_write_of_ne m v h

theorem mem_insertCell {a : Nat} {v : Byte} {m : Memory} {c : Host.Cell} :
    c ∈ insertCell a v m ↔ c = (a, v) ∨ c ∈ m := by
  induction m with
  | nil => simp [insertCell]
  | cons d m ih =>
    by_cases h : d.1 < a
    · simp only [insertCell, h, if_true, List.mem_cons, ih]
      tauto
    · simp [insertCell, h]

theorem pairwise_insertCell {a : Nat} (v : Byte) {m : Memory} (h : m.Pairwise fun c d => c.1 < d.1)
    (hne : ∀ c ∈ m, c.1 ≠ a) : (insertCell a v m).Pairwise fun c d => c.1 < d.1 := by
  induction m with
  | nil => simp [insertCell]
  | cons d m ih =>
    rw [List.pairwise_cons] at h
    have hd := hne d (by simp)
    by_cases hlt : d.1 < a
    · simp only [insertCell, hlt, if_true, List.pairwise_cons]
      refine ⟨fun c hc => ?_, ih h.2 fun c hc => hne c (by simp [hc])⟩
      rcases mem_insertCell.1 hc with rfl | hc
      · exact hlt
      · exact h.1 c hc
    · simp only [insertCell, hlt, if_false, List.pairwise_cons, List.mem_cons, forall_eq_or_imp]
      exact ⟨⟨by omega, fun c hc => lt_trans (by omega) (h.1 c hc)⟩, h.1, h.2⟩

/-- Every memory operation keeps the canonical form: `MemRead` changes nothing and `MemWrite` is the only other. -/
theorem write_wf {m : Memory} (a : WriteIndex) (v : Byte) (h : m.wf) : (m.write a v).wf := by
  obtain ⟨hp, hc⟩ := h
  have hpe : (eraseCell a.toNat m).Pairwise fun c d => c.1 < d.1 := hp.filter _
  have hce : ∀ c ∈ eraseCell a.toNat m, c.1 < Config.numCells ∧ c.2 ≠ unlistedByte :=
    fun c hm => hc c (mem_eraseCell.1 hm).1
  unfold Memory.write
  split
  · exact ⟨hpe, hce⟩
  · rename_i hv
    refine ⟨pairwise_insertCell v hpe fun c hm => (mem_eraseCell.1 hm).2, fun c hm => ?_⟩
    rcases mem_insertCell.1 hm with rfl | hm
    · exact ⟨a.isLt, hv⟩
    · exact hce c hm

theorem reset_buf_wf : State.reset.buf.wf := by decide

theorem cellAt_of_lt {m : Memory} {a : Nat} (h : ∀ c ∈ m, a < c.1) : cellAt m a = unlistedByte := by
  induction m with
  | nil => rfl
  | cons c m ih =>
    have hc := h c (by simp)
    rw [cellAt_cons, if_neg (by omega), ih fun d hd => h d (by simp [hd])]

theorem eq_of_cellAt_eq {m m' : Memory} (h : m.Pairwise fun c d => c.1 < d.1)
    (h' : m'.Pairwise fun c d => c.1 < d.1) (hv : ∀ c ∈ m, c.2 ≠ unlistedByte) (hv' : ∀ c ∈ m', c.2 ≠ unlistedByte)
    (e : ∀ a, cellAt m a = cellAt m' a) : m = m' := by
  induction m generalizing m' with
  | nil =>
    cases m' with
    | nil => rfl
    | cons d m' => exact absurd (by simpa using (e d.1).symm) (hv' d (by simp))
  | cons c m ih =>
    rw [List.pairwise_cons] at h
    cases m' with
    | nil => exact absurd (by simpa using e c.1) (hv c (by simp))
    | cons d m' =>
      rw [List.pairwise_cons] at h'
      have hkey : c.1 = d.1 := by
        rcases lt_trichotomy c.1 d.1 with hlt | heq | hlt
        · have := e c.1
          rw [cellAt_cons, if_pos rfl, cellAt_of_lt] at this
          · exact absurd this (hv c (by simp))
          · simpa [hlt] using fun x y hm => lt_trans hlt (h'.1 (x, y) hm)
        · exact heq
        · have := e d.1
          rw [cellAt_cons d, if_pos rfl, cellAt_of_lt] at this
          · exact absurd this.symm (hv' d (by simp))
          · simpa [hlt] using fun x y hm => lt_trans hlt (h.1 (x, y) hm)
      have hval : c.2 = d.2 := by simpa [hkey] using e c.1
      have htail : m = m' := by
        refine ih h.2 h'.2 (fun x hx => hv x (by simp [hx])) (fun x hx => hv' x (by simp [hx])) fun a => ?_
        by_cases ha : c.1 = a
        · subst ha
          rw [cellAt_of_lt h.1, cellAt_of_lt (hkey ▸ h'.1)]
        · have := e a
          rwa [cellAt_cons, if_neg ha, cellAt_cons, if_neg (hkey ▸ ha)] at this
      rw [Prod.ext hkey hval, htail]

theorem cellAt_of_not_listed {m : Memory} {a : Nat} (h : ∀ c ∈ m, c.1 ≠ a) : cellAt m a = unlistedByte := by
  induction m with
  | nil => rfl
  | cons c m ih => rw [cellAt_cons, if_neg (h c (by simp)), ih fun d hd => h d (by simp [hd])]

/-- Buffers in the canonical form that read alike in every cell are the same data. -/
theorem buffers_eq_of_read_eq {m m' : Memory} (h : m.wf) (h' : m'.wf) (e : ∀ a, m.read a = m'.read a) : m = m' := by
  refine eq_of_cellAt_eq h.1 h'.1 (fun c hc => (h.2 c hc).2) (fun c hc => (h'.2 c hc).2) fun a => ?_
  by_cases ha : a < 64
  · have := e (BitVec.ofNat 6 a)
    simpa [Memory.read, Nat.mod_eq_of_lt ha] using this
  · have out (n : Memory) (hn : n.wf) : cellAt n a = unlistedByte :=
      cellAt_of_not_listed fun c hc heq => ha (heq ▸ (hn.2 c hc).1)
    rw [out m h, out m' h']

end Sys2Proof.Machine
end

