-- ==== Sys2Proof/Laws/State.lean ====
section
/-! SUPPORT. One lemma per field per register update (10_state R46): what a named operation leaves in each field. -/

namespace Sys2Proof.Machine

variable (s : State)

@[simp] theorem setState_state (d : DecoderState) : (setState d s).state = d := rfl
@[simp] theorem setState_mi (d : DecoderState) : (setState d s).mi = s.mi := rfl
@[simp] theorem setState_wi (d : DecoderState) : (setState d s).wi = s.wi := rfl
@[simp] theorem setState_ready (d : DecoderState) : (setState d s).ready = s.ready := rfl
@[simp] theorem setState_buf (d : DecoderState) : (setState d s).buf = s.buf := rfl
@[simp] theorem setState_trace (d : DecoderState) : (setState d s).trace = s.trace := rfl
@[simp] theorem setState_env (d : DecoderState) : (setState d s).env = s.env := rfl

@[simp] theorem setMi_state (k : MarkerIndex) : (setMi k s).state = s.state := rfl
@[simp] theorem setMi_mi (k : MarkerIndex) : (setMi k s).mi = k := rfl
@[simp] theorem setMi_wi (k : MarkerIndex) : (setMi k s).wi = s.wi := rfl
@[simp] theorem setMi_ready (k : MarkerIndex) : (setMi k s).ready = s.ready := rfl
@[simp] theorem setMi_buf (k : MarkerIndex) : (setMi k s).buf = s.buf := rfl
@[simp] theorem setMi_trace (k : MarkerIndex) : (setMi k s).trace = s.trace := rfl
@[simp] theorem setMi_env (k : MarkerIndex) : (setMi k s).env = s.env := rfl

@[simp] theorem setWi_state (k : WriteIndex) : (setWi k s).state = s.state := rfl
@[simp] theorem setWi_mi (k : WriteIndex) : (setWi k s).mi = s.mi := rfl
@[simp] theorem setWi_wi (k : WriteIndex) : (setWi k s).wi = k := rfl
@[simp] theorem setWi_ready (k : WriteIndex) : (setWi k s).ready = s.ready := rfl
@[simp] theorem setWi_buf (k : WriteIndex) : (setWi k s).buf = s.buf := rfl
@[simp] theorem setWi_trace (k : WriteIndex) : (setWi k s).trace = s.trace := rfl
@[simp] theorem setWi_env (k : WriteIndex) : (setWi k s).env = s.env := rfl

@[simp] theorem setReady_state (r : Bool) : (setReady r s).state = s.state := rfl
@[simp] theorem setReady_mi (r : Bool) : (setReady r s).mi = s.mi := rfl
@[simp] theorem setReady_wi (r : Bool) : (setReady r s).wi = s.wi := rfl
@[simp] theorem setReady_ready (r : Bool) : (setReady r s).ready = r := rfl
@[simp] theorem setReady_buf (r : Bool) : (setReady r s).buf = s.buf := rfl
@[simp] theorem setReady_trace (r : Bool) : (setReady r s).trace = s.trace := rfl
@[simp] theorem setReady_env (r : Bool) : (setReady r s).env = s.env := rfl

@[simp] theorem storeCell_state (a : WriteIndex) (v : Byte) : (storeCell a v s).state = s.state := rfl
@[simp] theorem storeCell_mi (a : WriteIndex) (v : Byte) : (storeCell a v s).mi = s.mi := rfl
@[simp] theorem storeCell_wi (a : WriteIndex) (v : Byte) : (storeCell a v s).wi = s.wi := rfl
@[simp] theorem storeCell_ready (a : WriteIndex) (v : Byte) : (storeCell a v s).ready = s.ready := rfl
@[simp] theorem storeCell_buf (a : WriteIndex) (v : Byte) : (storeCell a v s).buf = s.buf.write a v := rfl
@[simp] theorem storeCell_trace (a : WriteIndex) (v : Byte) : (storeCell a v s).trace = s.trace := rfl
@[simp] theorem storeCell_env (a : WriteIndex) (v : Byte) : (storeCell a v s).env = s.env := rfl

@[simp] theorem emit_state (es : List PixelEvent) : (emit es s).state = s.state := rfl
@[simp] theorem emit_mi (es : List PixelEvent) : (emit es s).mi = s.mi := rfl
@[simp] theorem emit_wi (es : List PixelEvent) : (emit es s).wi = s.wi := rfl
@[simp] theorem emit_ready (es : List PixelEvent) : (emit es s).ready = s.ready := rfl
@[simp] theorem emit_buf (es : List PixelEvent) : (emit es s).buf = s.buf := rfl
@[simp] theorem emit_trace (es : List PixelEvent) : (emit es s).trace = s.trace ++ es := rfl
@[simp] theorem emit_env (es : List PixelEvent) : (emit es s).env = s.env := rfl

@[simp] theorem advanceMarker_state : (advanceMarker s).state = s.state := rfl
@[simp] theorem advanceMarker_mi : (advanceMarker s).mi = s.mi + 1 := rfl
@[simp] theorem advanceMarker_wi : (advanceMarker s).wi = s.wi := rfl
@[simp] theorem advanceMarker_ready : (advanceMarker s).ready = s.ready := rfl
@[simp] theorem advanceMarker_buf : (advanceMarker s).buf = s.buf := rfl
@[simp] theorem advanceMarker_trace : (advanceMarker s).trace = s.trace := rfl
@[simp] theorem advanceMarker_env : (advanceMarker s).env = s.env := rfl

@[simp] theorem append_state (v : Byte) : (append v s).state = s.state := rfl
@[simp] theorem append_mi (v : Byte) : (append v s).mi = s.mi := rfl
@[simp] theorem append_wi (v : Byte) : (append v s).wi = nextWriteIndex s.wi := rfl
@[simp] theorem append_ready (v : Byte) : (append v s).ready = s.ready := rfl
@[simp] theorem append_buf (v : Byte) : (append v s).buf = s.buf.write s.wi v := rfl
@[simp] theorem append_trace (v : Byte) : (append v s).trace = s.trace := rfl
@[simp] theorem append_env (v : Byte) : (append v s).env = s.env := rfl

@[simp] theorem takeReset_state (rest : List EnvInput) : (takeReset rest).state = .standby := rfl
@[simp] theorem takeReset_mi (rest : List EnvInput) : (takeReset rest).mi = 0 := rfl
@[simp] theorem takeReset_wi (rest : List EnvInput) : (takeReset rest).wi = 0 := rfl
@[simp] theorem takeReset_ready (rest : List EnvInput) : (takeReset rest).ready = false := rfl
@[simp] theorem takeReset_buf (rest : List EnvInput) : (takeReset rest).buf = [] := rfl
@[simp] theorem takeReset_trace (rest : List EnvInput) : (takeReset rest).trace = [] := rfl
@[simp] theorem takeReset_env (rest : List EnvInput) : (takeReset rest).env = rest := rfl

end Sys2Proof.Machine
end

