-- ==== Sys2Proof/Laws/Ops.lean ====
section
/-! SUPPORT. What the shared operations do, said once: the saturating increment, `Append`, a sequence of appends, the
events of a frame. -/

namespace Sys2Proof.Machine

/-- The increment saturates at `N - 1` (40_frame_decoder R110, R137). -/
theorem nextWriteIndex_toNat (wi : WriteIndex) : (nextWriteIndex wi).toNat = min 63 (wi.toNat + 1) := by
  have := wi.isLt
  unfold nextWriteIndex
  split <;> rename_i h <;> simp only [Config.numCells] at h
  · have h1 : (1 : WriteIndex).toNat = 1 := rfl
    rw [BitVec.toNat_add, h1]
    omega
  · omega

/-- `Append(v)` writes the cell at the old `wi` and no other (40_frame_decoder R110). -/
theorem append_read (v : Byte) (s : State) (a : WriteIndex) :
    (append v s).buf.read a = if a = s.wi then v else s.buf.read a := by
  simp [read_write]

theorem appendAll_append (us vs : List Byte) (s : State) :
    appendAll (us ++ vs) s = appendAll vs (appendAll us s) := by
  induction us generalizing s with
  | nil => rfl
  | cons u us ih => exact ih (append u s)

/-- Appends touch only the buffer and the Write Index. -/
theorem appendAll_eq (vs : List Byte) (s : State) :
    appendAll vs s = { s with buf := (appendAll vs s).buf, wi := (appendAll vs s).wi } := by
  induction vs generalizing s with
  | nil => rfl
  | cons v vs ih =>
    have := ih (append v s)
    simpa [appendAll, append, setWi, storeCell] using this

@[simp] theorem appendAll_state (vs : List Byte) (s : State) : (appendAll vs s).state = s.state := by
  rw [appendAll_eq]
@[simp] theorem appendAll_mi (vs : List Byte) (s : State) : (appendAll vs s).mi = s.mi := by rw [appendAll_eq]
@[simp] theorem appendAll_ready (vs : List Byte) (s : State) : (appendAll vs s).ready = s.ready := by
  rw [appendAll_eq]
@[simp] theorem appendAll_trace (vs : List Byte) (s : State) : (appendAll vs s).trace = s.trace := by
  rw [appendAll_eq]
@[simp] theorem appendAll_env (vs : List Byte) (s : State) : (appendAll vs s).env = s.env := by rw [appendAll_eq]

/-- The Write Index after a sequence of appends (40_frame_decoder R110, R128). -/
theorem appendAll_wi (vs : List Byte) (s : State) : (appendAll vs s).wi.toNat = min 63 (s.wi.toNat + vs.length) := by
  induction vs generalizing s with
  | nil =>
    have := s.wi.isLt
    simp only [appendAll, List.length_nil]
    omega
  | cons v vs ih =>
    have h := nextWriteIndex_toNat s.wi
    simp only [appendAll, ih, append_wi, List.length_cons, h]
    omega

/-- The cell at `a` after a sequence of appends: below the old `wi` unchanged, from it on the bytes in order, cell 63
the last byte that reached it (40_frame_decoder R110, R128 (d)). -/
theorem appendAll_read (vs : List Byte) (s : State) (a : WriteIndex) :
    (appendAll vs s).buf.read a =
      if a.toNat < s.wi.toNat then s.buf.read a
      else if a.toNat = 63 ∧ 64 ≤ s.wi.toNat + vs.length then vs.getLast?.getD (s.buf.read a)
      else vs[a.toNat - s.wi.toNat]?.getD (s.buf.read a) := by
  induction vs generalizing s with
  | nil => simp [appendAll]
  | cons v vs ih =>
    have ha := a.isLt
    have hw := s.wi.isLt
    have hn := nextWriteIndex_toNat s.wi
    have heq : a = s.wi ↔ a.toNat = s.wi.toNat := BitVec.toNat_inj.symm
    simp only [appendAll, ih, append_wi, append_read, List.length_cons]
    by_cases hlast : s.wi.toNat = 63
    · by_cases h63 : a.toNat = 63
      · cases vs with
        | nil => simp [heq, hlast, h63, hn]
        | cons u us =>
          have h1 : 64 ≤ 63 + (us.length + 1) := by omega
          have h2 : 64 ≤ 63 + (us.length + 1 + 1) := by omega
          simp [heq, hlast, h63, hn, List.getLast?_cons, h1, h2]
      · have : a.toNat < s.wi.toNat := by omega
        have h1 : a.toNat < (nextWriteIndex s.wi).toNat := by omega
        simp [heq, this, h1, this.ne]
    · have hn' : (nextWriteIndex s.wi).toNat = s.wi.toNat + 1 := by omega
      rcases lt_trichotomy a.toNat s.wi.toNat with h | h | h
      · have h1 : a.toNat < s.wi.toNat + 1 := by omega
        simp [heq, hn', h, h1, h.ne]
      · have h1 : ¬ a.toNat = 63 := by omega
        simp [heq, hn', h, hlast]
      · have h1 : ¬ a.toNat < s.wi.toNat + 1 := by omega
        have h2 : ¬ a.toNat < s.wi.toNat := by omega
        have h3 : a.toNat ≠ s.wi.toNat := by omega
        have h4 : a.toNat - s.wi.toNat = (a.toNat - (s.wi.toNat + 1)) + 1 := by omega
        have h5 : s.wi.toNat + 1 + vs.length = s.wi.toNat + (vs.length + 1) := by omega
        rw [hn', h5]
        simp only [h1, h2, if_false, heq, h3, h4, List.getElem?_cons_succ]
        split
        · rename_i hc
          cases vs with
          | nil => simp at hc; omega
          | cons u us => simp [List.getLast?_cons]
        · rfl

/-- Each append keeps the canonical form of the buffer. -/
theorem appendAll_wf (vs : List Byte) {s : State} (h : s.buf.wf) : (appendAll vs s).buf.wf := by
  induction vs generalizing s with
  | nil => exact h
  | cons v vs ih => exact ih (write_wf s.wi v h)

theorem heldBack_length (mi : MarkerIndex) : (heldBack mi).length = mi.toNat := by
  have := mi.isLt
  simp only [heldBack, List.length_take, endMarker, List.length_cons, List.length_nil]
  omega

@[simp] theorem frameEvents_length (m : Memory) : (frameEvents m).length = 64 := by simp [frameEvents, Config.numCells]

/-- Event `k` of a published frame is that of cell `k` (41_buffer_publisher R154). -/
theorem frameEvents_getElem? (m : Memory) {k : Nat} (h : k < 64) :
    (frameEvents m)[k]? = some (pixelEvent m (BitVec.ofNat 6 k)) := by
  simp [frameEvents, Config.numCells, h]

/-- A published frame depends on the buffer only through its cells (41_buffer_publisher R154). -/
theorem frameEvents_congr {m m' : Memory} (h : ∀ a, pixelOn (m.read a) = pixelOn (m'.read a)) :
    frameEvents m = frameEvents m' := by
  simp [frameEvents, pixelEvent, h]

end Sys2Proof.Machine
end

