-- ==== Sys2Proof/Laws/PerInstr.lean ====
section
/-! SUPPORT. The family `RowPattern`: the word of a well-formed instruction hits the row of the opcode table that bears
its mnemonic (30_encoding R83, R84, R86). -/

namespace Sys2Proof

/-- Masking a selector word masks its fields. -/
theorem selectorWord_and (st st' : BitVec 2) (mi mi' : MarkerIndex) (b b' : Byte) :
    selectorWord st mi b &&& selectorWord st' mi' b' = selectorWord (st &&& st') (mi &&& mi') (b &&& b') := by
  change ((st ++ mi ++ b : BitVec (2 + 3 + 8)) &&& (st' ++ mi' ++ b' : BitVec (2 + 3 + 8))) = _
  rw [BitVec.and_append, BitVec.and_append]
  rfl

/-- The mask of a row that fixes the state alone. -/
theorem selectorWord_and_stateMask (st : BitVec 2) (mi : MarkerIndex) (b : Byte) :
    selectorWord st mi b &&& 0x1800 = selectorWord st 0 0 := by
  have : (0x1800 : SelectorWord) = selectorWord 0b11 0 0 := rfl
  rw [this, selectorWord_and]
  congr 1
  · revert st; decide
  · simp
  · simp

/-- The mask of a row that fixes the state and the byte. -/
theorem selectorWord_and_byteMask (st : BitVec 2) (mi : MarkerIndex) (b : Byte) :
    selectorWord st mi b &&& 0x18FF = selectorWord st 0 b := by
  have : (0x18FF : SelectorWord) = selectorWord 0b11 0 0xFF := rfl
  have h255 : (0xFF : Byte) = BitVec.allOnes 8 := rfl
  rw [this, selectorWord_and, h255, BitVec.and_allOnes]
  congr 1
  · revert st; decide
  · simp

/-- The mask of a row that fixes the state and `mi >= 6`. -/
theorem selectorWord_and_miMask (st : BitVec 2) (mi : MarkerIndex) (b : Byte) (h : 6 ≤ mi.toNat) :
    selectorWord st mi b &&& 0x1E00 = selectorWord st 6 0 := by
  have : (0x1E00 : SelectorWord) = selectorWord 0b11 6 0 := rfl
  rw [this, selectorWord_and]
  congr 1
  · revert st; decide
  · revert mi; decide
  · simp

namespace Laws.RowPattern

/-- The word of the instruction, if it is well formed, hits the row of its mnemonic; a `CMD` word is the row's one bit. -/
def Statement (i : Instr) : Prop :=
  i.wellFormed = true →
    match encode i with
    | .sel w => ∃ r ∈ selRows, r.mnemonic = mnemonicOf i ∧ selRowHits r w = true
    | .cmd w => (mnemonicOf i = "PUBLISH" ∧ w = 1) ∨ (mnemonicOf i = "PUBLISH_IDLE" ∧ w = 0)

theorem sbArm (mi : MarkerIndex) : Statement (.sbArm mi) := fun _ =>
  ⟨⟨"SB_ARM", 0x003C, 0x18FF, 0b00, 1⟩, by simp [selRows], rfl,
    by rw [selRowHits, selectorWord_and_byteMask]; rfl⟩

theorem sbSkip (mi : MarkerIndex) (b : Byte) : Statement (.sbSkip mi b) := fun _ =>
  ⟨⟨"SB_SKIP", 0x0000, 0x1800, 0b00, 2⟩, by simp [selRows], rfl,
    by rw [selRowHits, selectorWord_and_stateMask]; rfl⟩

theorem rsCapture (mi : MarkerIndex) (b : Byte) : Statement (.rsCapture mi b) := fun h =>
  ⟨⟨"RS_CAPTURE", 0x0E00, 0x1E00, 0b01, 1⟩, by simp [selRows], rfl,
    by rw [selRowHits, selectorWord_and_miMask _ _ _ (of_decide_eq_true h)]; rfl⟩

theorem rsMatch0 : Statement .rsMatch0 := fun _ =>
  ⟨⟨"RS_MATCH_0", 0x083C, 0x1FFF, 0b01, 2⟩, by simp [selRows], rfl, rfl⟩

theorem rsMatch1 : Statement .rsMatch1 := fun _ =>
  ⟨⟨"RS_MATCH_1", 0x0964, 0x1FFF, 0b01, 2⟩, by simp [selRows], rfl, rfl⟩

theorem rsMatch2 : Statement .rsMatch2 := fun _ =>
  ⟨⟨"RS_MATCH_2", 0x0A61, 0x1FFF, 0b01, 2⟩, by simp [selRows], rfl, rfl⟩

theorem rsMatch3 : Statement .rsMatch3 := fun _ =>
  ⟨⟨"RS_MATCH_3", 0x0B74, 0x1FFF, 0b01, 2⟩, by simp [selRows], rfl, rfl⟩

theorem rsMatch4 : Statement .rsMatch4 := fun _ =>
  ⟨⟨"RS_MATCH_4", 0x0C61, 0x1FFF, 0b01, 2⟩, by simp [selRows], rfl, rfl⟩

theorem rsMatch5 : Statement .rsMatch5 := fun _ =>
  ⟨⟨"RS_MATCH_5", 0x0D3E, 0x1FFF, 0b01, 2⟩, by simp [selRows], rfl, rfl⟩


theorem rsAbort (mi : MarkerIndex) (b : Byte) : Statement (.rsAbort mi b) := fun _ =>
  ⟨⟨"RS_ABORT", 0x0800, 0x1800, 0b01, 3⟩, by simp [selRows], rfl,
    by rw [selRowHits, selectorWord_and_stateMask]; rfl⟩

theorem rdTent (mi : MarkerIndex) : Statement (.rdTent mi) := fun _ =>
  ⟨⟨"RD_TENT", 0x103C, 0x18FF, 0b10, 1⟩, by simp [selRows], rfl,
    by rw [selRowHits, selectorWord_and_byteMask]; rfl⟩

theorem rdAppend (mi : MarkerIndex) (b : Byte) : Statement (.rdAppend mi b) := fun _ =>
  ⟨⟨"RD_APPEND", 0x1000, 0x1800, 0b10, 2⟩, by simp [selRows], rfl,
    by rw [selRowHits, selectorWord_and_stateMask]; rfl⟩

theorem reDone (mi : MarkerIndex) (b : Byte) : Statement (.reDone mi b) := fun h =>
  ⟨⟨"RE_DONE", 0x1E00, 0x1E00, 0b11, 1⟩, by simp [selRows], rfl,
    by rw [selRowHits, selectorWord_and_miMask _ _ _ (of_decide_eq_true h)]; rfl⟩

theorem reMatch0 : Statement .reMatch0 := fun _ =>
  ⟨⟨"RE_MATCH_0", 0x183C, 0x1FFF, 0b11, 2⟩, by simp [selRows], rfl, rfl⟩

theorem reMatch1 : Statement .reMatch1 := fun _ =>
  ⟨⟨"RE_MATCH_1", 0x192F, 0x1FFF, 0b11, 2⟩, by simp [selRows], rfl, rfl⟩

theorem reMatch2 : Statement .reMatch2 := fun _ =>
  ⟨⟨"RE_MATCH_2", 0x1A64, 0x1FFF, 0b11, 2⟩, by simp [selRows], rfl, rfl⟩

theorem reMatch3 : Statement .reMatch3 := fun _ =>
  ⟨⟨"RE_MATCH_3", 0x1B61, 0x1FFF, 0b11, 2⟩, by simp [selRows], rfl, rfl⟩

theorem reMatch4 : Statement .reMatch4 := fun _ =>
  ⟨⟨"RE_MATCH_4", 0x1C74, 0x1FFF, 0b11, 2⟩, by simp [selRows], rfl, rfl⟩

theorem reMatch5 : Statement .reMatch5 := fun _ =>
  ⟨⟨"RE_MATCH_5", 0x1D61, 0x1FFF, 0b11, 2⟩, by simp [selRows], rfl, rfl⟩


theorem reBacktrack (mi : MarkerIndex) (b : Byte) : Statement (.reBacktrack mi b) := fun _ =>
  ⟨⟨"RE_BACKTRACK", 0x1800, 0x1800, 0b11, 3⟩, by simp [selRows], rfl,
    by rw [selRowHits, selectorWord_and_stateMask]; rfl⟩

theorem publish : Statement .publish := fun _ => .inl ⟨rfl, rfl⟩

theorem publishIdle : Statement .publishIdle := fun _ => .inr ⟨rfl, rfl⟩

end Laws.RowPattern

end Sys2Proof
end

