-- ==== Sys2Proof/Laws/Step.lean ====
section
/-! SUPPORT. What a transition, a step and a run can do, said once: later proofs cite these and do not unfold `exec`,
`decode` or `step`. -/

namespace Sys2Proof.Machine

/-- The six rows of `RS_MATCH` have one effect. -/
theorem exec_startMatchRow (mi : MarkerIndex) (s : State) : exec (startMatchRow mi) s = .next (advanceMarker s) := by
  unfold startMatchRow
  split <;> rfl

/-- The six rows of `RE_MATCH` have one effect. -/
theorem exec_endMatchRow (mi : MarkerIndex) (s : State) : exec (endMatchRow mi) s = .next (advanceMarker s) := by
  unfold endMatchRow
  split <;> rfl

/-- What any operation can do, whether or not a selector chooses it in this state. -/
theorem exec_cases {i : Instr} {s t : State} (h : exec i s = .next t) :
    (∃ mi, i = .sbArm mi ∧ t = setState .readingStart (setMi 1 s)) ∨
    (((∃ mi b, i = .sbSkip mi b) ∨ i = .publishIdle) ∧ t = s) ∨
    (∃ mi b, i = .rsCapture mi b ∧ t = setState .readingData (setWi 1 (storeCell 0 b s))) ∨
    (isMatchRow i = true ∧ t = advanceMarker s) ∨
    (∃ mi b, i = .rsAbort mi b ∧ t = setState .standby s) ∨
    (∃ mi, i = .rdTent mi ∧ t = setState .readingEnd (setMi 1 s)) ∨
    (∃ mi b, i = .rdAppend mi b ∧ t = append b s) ∨
    (∃ mi b, i = .reDone mi b ∧ t = setReady true (setWi 0 (setState .standby s))) ∨
    (∃ mi b, i = .reBacktrack mi b ∧ t = setState .readingData (append b (appendAll (heldBack s.mi) s))) ∨
    (i = .publish ∧ t = setReady false (emit (frameEvents s.buf) s)) := by
  cases i <;> cases h <;> simp [isMatchRow]

/-- A transition from `Standby` (40_frame_decoder R112, R113). -/
theorem feed_standby {b : Byte} {s : State} (h : s.state = .standby) :
    feed b s = .next (if b = markerOpen then setState .readingStart (setMi 1 s) else s) := by
  unfold feed
  rw [decode_selectorOf, h]
  by_cases hb : b = markerOpen <;> simp [decodeStandby, hb, exec, execSbArm, execSbSkip]

/-- A transition from `ReadingStart` (40_frame_decoder R116, R117, R118). -/
theorem feed_readingStart {b : Byte} {s : State} (h : s.state = .readingStart) :
    feed b s = .next (if 6 ≤ s.mi.toNat then setState .readingData (setWi 1 (storeCell 0 b s))
      else if matchesStart s.mi b then advanceMarker s else setState .standby s) := by
  unfold feed
  rw [decode_selectorOf, h]
  by_cases h6 : 6 ≤ s.mi.toNat
  · simp [decodeReadingStart, Config.lenStartMarker, h6, exec, execRsCapture]
  · by_cases hm : matchesStart s.mi b
    · simp [decodeReadingStart, Config.lenStartMarker, h6, hm, exec_startMatchRow]
    · simp [decodeReadingStart, Config.lenStartMarker, h6, hm, exec, execRsAbort]

/-- A transition from `ReadingData` (40_frame_decoder R122, R123). -/
theorem feed_readingData {b : Byte} {s : State} (h : s.state = .readingData) :
    feed b s = .next (if b = markerOpen then setState .readingEnd (setMi 1 s) else append b s) := by
  unfold feed
  rw [decode_selectorOf, h]
  by_cases hb : b = markerOpen <;> simp [decodeReadingData, hb, exec, execRdTent, execRdAppend]

/-- A transition from `ReadingEnd` (40_frame_decoder R126, R127, R128). -/
theorem feed_readingEnd {b : Byte} {s : State} (h : s.state = .readingEnd) :
    feed b s = .next (if 6 ≤ s.mi.toNat then setReady true (setWi 0 (setState .standby s))
      else if matchesEnd s.mi b then advanceMarker s
      else setState .readingData (append b (appendAll (heldBack s.mi) s))) := by
  unfold feed
  rw [decode_selectorOf, h]
  by_cases h6 : 6 ≤ s.mi.toNat
  · simp [decodeReadingEnd, Config.lenEndMarker, h6, exec, execReDone]
  · by_cases hm : matchesEnd s.mi b
    · simp [decodeReadingEnd, Config.lenEndMarker, h6, hm, exec_endMatchRow]
    · simp [decodeReadingEnd, Config.lenEndMarker, h6, hm, exec, execReBacktrack]

/-- What a step can do: take a reset, publish, poll and find no byte, or feed the head byte (42_control_loop R172). -/
theorem step_cases {s t : State} (h : step s = .next t) :
    (∃ rest, s.env = .reset :: rest ∧ t = takeReset rest) ∨
    (s.ready = true ∧ resetPending s = false ∧ t = setReady false (emit (frameEvents s.buf) s)) ∨
    (s.ready = false ∧ (s.env = [] ∨ ∃ rest, s.env = .gap :: rest) ∧ t = { s with env := s.env.tail }) ∨
    (∃ b rest, s.ready = false ∧ s.env = .byte b :: rest ∧ feed b { s with env := rest } = .next t) := by
  obtain ⟨st, mi, wi, ready, buf, trace, env⟩ := s
  cases ready
  · cases env with
    | nil =>
      cases h
      exact .inr (.inr (.inl ⟨rfl, .inl rfl, rfl⟩))
    | cons e rest =>
      cases e with
      | byte b => exact .inr (.inr (.inr ⟨b, rest, rfl, rfl, h⟩))
      | gap =>
        cases h
        exact .inr (.inr (.inl ⟨rfl, .inr ⟨rest, rfl⟩, rfl⟩))
      | reset =>
        cases h
        exact .inl ⟨rest, rfl, rfl⟩
  · cases env with
    | nil =>
      cases h
      exact .inr (.inl ⟨rfl, rfl, rfl⟩)
    | cons e rest =>
      cases e with
      | byte b =>
        cases h
        exact .inr (.inl ⟨rfl, rfl, rfl⟩)
      | gap =>
        cases h
        exact .inr (.inl ⟨rfl, rfl, rfl⟩)
      | reset =>
        cases h
        exact .inl ⟨rest, rfl, rfl⟩

@[simp] theorem run_zero (s : State) : run 0 s = .next s := rfl

/-- A run's first step, when it answers a next state. -/
theorem run_succ {n : Nat} {s t : State} (h : step s = .next t) : run (n + 1) s = run n t := by simp [run, h]

/-- A run of `m + n` steps is a run of `m` and then one of `n`. -/
theorem run_add {m n : Nat} {s t : State} (h : run m s = .next t) : run (m + n) s = run n t := by
  induction m generalizing s with
  | zero => cases h; simp
  | succ m ih =>
    rw [Nat.add_right_comm]
    simp only [run] at h ⊢
    cases hs : step s with
    | next u =>
      rw [hs] at h
      exact ih h
    | fault r => cases r
    | refused r => simp [hs] at h

/-- An invariant of the step is one of the run. -/
theorem run_keeps {P : State → Prop} (keeps : ∀ s t, P s → step s = .next t → P t) {n : Nat} {s t : State}
    (hs : P s) (h : run n s = .next t) : P t := by
  induction n generalizing s with
  | zero => cases h; exact hs
  | succ n ih =>
    simp only [run] at h
    cases hstep : step s with
    | next u =>
      rw [hstep] at h
      exact ih (keeps s u hs hstep) h
    | fault r => cases r
    | refused r => simp [hstep] at h

/-- What holds after reset, whatever the environment has pending, and is kept by every step holds of every reachable
state. -/
theorem reachable_of_keeps {P : State → Prop} (hreset : ∀ env, P { State.reset with env := env })
    (keeps : ∀ s t, P s → step s = .next t → P t) {s : State} (h : Reachable s) : P s := by
  obtain ⟨n, env, h⟩ := h
  exact run_keeps keeps (hreset env) h

/-- The simple premise of 40_frame_decoder R135: bytes without a `'<'` never leave `ReadingData`. -/
theorem endScan_zero_of_no_opener {ps : List Byte} (h : (0x3C : Byte) ∉ ps) : endScan 0 ps = some 0 := by
  induction ps with
  | nil => rfl
  | cons b ps ih =>
    obtain ⟨hb, hps⟩ := not_or.1 (List.mem_cons.not.1 h)
    simpa only [endScan, if_true, if_neg (Ne.symm hb)] using ih hps

/-- The model's run is the host's. -/
theorem run_eq_core_run (n : Nat) (s : State) : Sys2Proof.core.run n s = run n s := by
  induction n generalizing s with
  | zero => rfl
  | succ n ih =>
    have e : Sys2Proof.core.step s = step s := rfl
    cases h : step s with
    | next t =>
      simp only [Host.Core.run, run, e, h, ih t]
      rfl
    | fault r => cases r
    | refused r =>
      simp only [Host.Core.run, run, e, h]
      rfl

end Sys2Proof.Machine
end

