-- ==== Sys2Proof/Tests/Slice0.lean ====
section
/-! SUPPORT. Small tests, their expected values from 95_test_vectors and the tables of 30_encoding, and a witness for the
hypotheses of each statement that has any. -/

namespace Sys2Proof.Tests
open Sys2Proof.Machine

/-- A state `(d, mi, wi, ready)` with all cells zero and these pending inputs. -/
def mk (d : DecoderState) (mi : MarkerIndex) (wi : WriteIndex) (ready : Bool) (env : List EnvInput := []) : State :=
  { State.reset with state := d, mi := mi, wi := wi, ready := ready, env := env }

/-- The registers of a next state, written `(state, mi, wi, ready)` as in the vectors. -/
def regs : Host.Outcome State Fault Refusal → Option (DecoderState × MarkerIndex × WriteIndex × Bool)
  | .next t => some (t.state, t.mi, t.wi, t.ready)
  | .fault _ => none
  | .refused _ => none

/-- The listed (nonzero) cells of a next state. -/
def cells : Host.Outcome State Fault Refusal → Memory
  | .next t => t.buf
  | .fault _ => []
  | .refused _ => []

/-- The pending inputs of a next state. -/
def pending : Host.Outcome State Fault Refusal → List EnvInput
  | .next t => t.env
  | .fault _ => []
  | .refused _ => []

/-- The display trace of a next state. -/
def events : Host.Outcome State Fault Refusal → List PixelEvent
  | .next t => t.trace
  | .fault _ => []
  | .refused _ => []

/-! ## Well-formedness: each check refuses an ill-formed term -/

theorem test_wf_sbSkip : (Instr.sbSkip 0 0x3C).wellFormed = false := by decide
theorem test_wf_rsCapture : (Instr.rsCapture 5 0x41).wellFormed = false := by decide
theorem test_wf_rsAbort_index : (Instr.rsAbort 6 0x41).wellFormed = false := by decide
theorem test_wf_rsAbort_byte : (Instr.rsAbort 3 0x74).wellFormed = false := by decide
theorem test_wf_rdAppend : (Instr.rdAppend 6 0x3C).wellFormed = false := by decide
theorem test_wf_reDone : (Instr.reDone 5 0x3E).wellFormed = false := by decide
theorem test_wf_reBacktrack_index : (Instr.reBacktrack 6 0x41).wellFormed = false := by decide
theorem test_wf_reBacktrack_byte : (Instr.reBacktrack 1 0x2F).wellFormed = false := by decide

/-! ## Decoding: every constructor from a word written out field by field, `state_mi_b` (30_encoding R81, R83, R84) -/

theorem test_decode_standby :
    decode (.sel 0b00_000_00111100) = .sbArm 0 ∧ decode (.sel 0b00_110_00001010) = .sbSkip 6 0x0A := by decide
theorem test_decode_readingStart :
    decode (.sel 0b01_110_00111100) = .rsCapture 6 0x3C ∧ decode (.sel 0b01_111_01000001) = .rsCapture 7 0x41 ∧
    decode (.sel 0b01_010_00111100) = .rsAbort 2 0x3C ∧ decode (.sel 0b01_000_01100100) = .rsAbort 0 0x64 := by decide
theorem test_decode_startMatch :
    decode (.sel 0x083C) = .rsMatch0 ∧ decode (.sel 0x0964) = .rsMatch1 ∧ decode (.sel 0x0A61) = .rsMatch2 ∧
    decode (.sel 0x0B74) = .rsMatch3 ∧ decode (.sel 0x0C61) = .rsMatch4 ∧ decode (.sel 0x0D3E) = .rsMatch5 := by decide
theorem test_decode_readingData :
    decode (.sel 0b10_110_00111100) = .rdTent 6 ∧ decode (.sel 0b10_001_00111110) = .rdAppend 1 0x3E := by decide
theorem test_decode_readingEnd :
    decode (.sel 0b11_110_00111100) = .reDone 6 0x3C ∧ decode (.sel 0b11_111_01000001) = .reDone 7 0x41 ∧
    decode (.sel 0b11_001_00111100) = .reBacktrack 1 0x3C ∧ decode (.sel 0b11_000_01000001) = .reBacktrack 0 0x41 := by
  decide
theorem test_decode_endMatch :
    decode (.sel 0x183C) = .reMatch0 ∧ decode (.sel 0x192F) = .reMatch1 ∧ decode (.sel 0x1A64) = .reMatch2 ∧
    decode (.sel 0x1B61) = .reMatch3 ∧ decode (.sel 0x1C74) = .reMatch4 ∧ decode (.sel 0x1D61) = .reMatch5 := by decide
theorem test_decode_publisher : decode (.cmd 1) = .publish ∧ decode (.cmd 0) = .publishIdle := by decide
theorem test_decodeTableWord :
    decodeTableWord 16 0x003C = some (.sbArm 0) ∧ decodeTableWord 16 0x1E00 = some (.reDone 6 0) ∧
    decodeTableWord 8 1 = some .publish ∧ decodeTableWord 8 0 = some .publishIdle := by decide
theorem test_decodeTableWord_refuses :
    tableWord 16 0x2000 = .error .aboveSelectorWord ∧ tableWord 8 2 = .error .aboveCommandWord ∧
    decodeTableWord 16 0x2000 = none := ⟨rfl, rfl, rfl⟩

/-! ## The transitions (95_test_vectors D2 to D9, D17) -/

theorem test_sbArm : regs (feed 0x3C (mk .standby 6 63 false)) = some (.readingStart, 1, 63, false) := by decide
theorem test_sbSkip : feed 0x64 (mk .standby 6 0 false) = .next (mk .standby 6 0 false) := rfl
theorem test_rsMatch : regs (feed 0x74 (mk .readingStart 3 0 false)) = some (.readingStart, 4, 0, false) := by decide
theorem test_rsMatch_last : regs (feed 0x3E (mk .readingStart 5 0 false)) = some (.readingStart, 6, 0, false) := by
  decide
theorem test_rsAbort : regs (feed 0x64 (mk .readingStart 2 0 false)) = some (.standby, 2, 0, false) := by decide
theorem test_rsAbort_opener : regs (feed 0x3C (mk .readingStart 5 0 false)) = some (.standby, 5, 0, false) := by decide
theorem test_rsCapture : regs (feed 0x41 (mk .readingStart 6 37 false)) = some (.readingData, 6, 1, false) ∧
    cells (feed 0x41 (mk .readingStart 6 37 false)) = [(0, 0x41)] := by decide
theorem test_rsCapture_opener : regs (feed 0x3C (mk .readingStart 6 0 false)) = some (.readingData, 6, 1, false) ∧
    cells (feed 0x3C (mk .readingStart 6 0 false)) = [(0, 0x3C)] := by decide
theorem test_rdTent : regs (feed 0x3C (mk .readingData 6 63 false)) = some (.readingEnd, 1, 63, false) := by decide
theorem test_rdAppend : regs (feed 0x99 (mk .readingData 6 62 false)) = some (.readingData, 6, 63, false) ∧
    cells (feed 0x99 (mk .readingData 6 62 false)) = [(62, 0x99)] := by decide
theorem test_rdAppend_saturated : regs (feed 0x99 (mk .readingData 6 63 false)) = some (.readingData, 6, 63, false) ∧
    cells (feed 0x99 (mk .readingData 6 63 false)) = [(63, 0x99)] := by decide
theorem test_reMatch : regs (feed 0x2F (mk .readingEnd 1 10 false)) = some (.readingEnd, 2, 10, false) := by decide
theorem test_reMatch_last : regs (feed 0x61 (mk .readingEnd 5 10 false)) = some (.readingEnd, 6, 10, false) := by decide
theorem test_reDone : regs (feed 0x58 (mk .readingEnd 6 10 false)) = some (.standby, 6, 0, true) := by decide
theorem test_reDone_opener : regs (feed 0x3C (mk .readingEnd 6 10 false)) = some (.standby, 6, 0, true) := by decide
theorem test_reBacktrack : regs (feed 0x3C (mk .readingEnd 5 10 false)) = some (.readingData, 5, 16, false) ∧
    cells (feed 0x3C (mk .readingEnd 5 10 false)) =
      [(10, 0x3C), (11, 0x2F), (12, 0x64), (13, 0x61), (14, 0x74), (15, 0x3C)] := by decide
theorem test_reBacktrack_saturating : regs (feed 0x21 (mk .readingEnd 5 60 false)) = some (.readingData, 5, 63, false) ∧
    cells (feed 0x21 (mk .readingEnd 5 60 false)) = [(60, 0x3C), (61, 0x2F), (62, 0x64), (63, 0x21)] := by decide
theorem test_unreachable_mi_zero : regs (feed 0x41 (mk .readingEnd 0 10 false)) = some (.readingData, 0, 11, false) ∧
    cells (feed 0x41 (mk .readingEnd 0 10 false)) = [(10, 0x41)] := by decide
theorem test_unreachable_mi_seven : regs (feed 0x41 (mk .readingEnd 7 10 false)) = some (.standby, 7, 0, true) := by
  decide
theorem test_bare_function_with_flag : regs (feed 0x11 (mk .readingStart 6 0 true)) = some (.readingData, 6, 1, true) := by
  decide

/-! ## The publisher (95_test_vectors S2, S10, D16, D19) -/

theorem test_threshold : [0, 1, 60, 126, 127, 128, 254, 255].map pixelOn =
    [false, false, false, false, true, true, true, true] := by decide
theorem test_row_col : [0, 1, 7, 8, 9, 27, 56, 63].map (fun i => (rowOf i, colOf i)) =
    [(0, 0), (0, 1), (0, 7), (1, 0), (1, 1), (3, 3), (7, 0), (7, 7)] := by decide

/-- The buffer of vector D16. -/
def bufD16 : Memory := [(0, 0x7F), (1, 0x7E), (9, 0xFF), (63, 0x80)]

theorem test_publish : (events (step { mk .standby 6 0 true with buf := bufD16 })).filter (·.on) =
    [⟨0, 0, true⟩, ⟨1, 1, true⟩, ⟨7, 7, true⟩] := by decide
theorem test_publish_first_events : (events (step { mk .standby 6 0 true with buf := bufD16 })).take 2 =
    [⟨0, 0, true⟩, ⟨0, 1, false⟩] ∧ regs (step { mk .standby 6 0 true with buf := bufD16 }) = some (.standby, 6, 0, false) := by
  decide
theorem test_publishIdle : step (mk .readingData 6 12 false) = .next (mk .readingData 6 12 false) := rfl

/-! ## The loop, the gate, reset (95_test_vectors S6, D22) -/

theorem test_gate_holds_byte : pending (step (mk .standby 6 0 true [.byte 0x3C])) = [.byte 0x3C] := by decide
theorem test_byte_is_consumed : regs (step (mk .standby 6 0 false [.byte 0x3C, .gap])) = some (.readingStart, 1, 0, false) ∧
    pending (step (mk .standby 6 0 false [.byte 0x3C, .gap])) = [.gap] := by decide
theorem test_gap_polls_nothing : step (mk .readingEnd 3 17 false [.gap, .byte 0x64]) =
    .next (mk .readingEnd 3 17 false [.byte 0x64]) := rfl
theorem test_reset_in_mid_frame : step { mk .readingEnd 3 17 true [.reset, .byte 0x10] with buf := bufD16 } =
    .next { State.reset with env := [.byte 0x10] } := rfl
theorem test_withFetchWord_sel : regs (step (State.reset.withFetchWord 16 0x1D61)) = some (.readingEnd, 6, 0, false) := by
  decide
theorem test_withFetchWord_cmd : (events (step (State.reset.withFetchWord 8 1))).length = 64 := by decide
theorem test_write_keeps_form : (Memory.write bufD16 9 0x00) = [(0, 0x7F), (1, 0x7E), (63, 0x80)] ∧
    Memory.write bufD16 5 0xAA = [(0, 0x7F), (1, 0x7E), (5, 0xAA), (9, 0xFF), (63, 0x80)] := by decide
theorem test_wf_refuses : ¬ Memory.wf [(1, 0x00)] ∧ ¬ Memory.wf [(2, 0x01), (1, 0x01)] ∧ ¬ Memory.wf [(64, 0x01)] := by
  decide
theorem test_signals : inReadySignal (mk .standby 6 0 true [.byte 0x41]) = false ∧
    inReadySignal (mk .standby 6 0 false [.reset]) = false ∧
    inDataSignal (mk .standby 6 0 false [.byte 0x41]) = some 0x41 := by decide

/-! ## Witnesses: states and operands that meet the hypotheses of the statements -/

theorem witness_DecodeOfEncode : (Instr.reBacktrack 5 0x3C).wellFormed = true ∧ (Instr.rsAbort 0 0x64).wellFormed = true ∧
    (Instr.rsCapture 7 0).wellFormed = true := by decide
theorem witness_SelectorWordFields : (mk .readingEnd 3 5 true).state = (mk .readingEnd 3 9 false).state ∧
    (mk .readingEnd 3 5 true).mi = (mk .readingEnd 3 9 false).mi := by decide

/-- A state whose step feeds this byte. -/
def gated (d : DecoderState) (mi : MarkerIndex) (wi : WriteIndex) (b : Byte) : State := mk d mi wi false [.byte b]

theorem witness_SbArm : (gated .standby 6 0 0x3C).state = .standby ∧ (gated .standby 6 0 0x3C).ready = false ∧
    (gated .standby 6 0 0x3C).env = [.byte 0x3C] := by decide
theorem witness_SbSkip : (gated .standby 0 0 0xFF).state = .standby ∧ (0xFF : Byte) ≠ 0x3C ∧
    (gated .standby 0 0 0xFF).ready = false ∧ (gated .standby 0 0 0xFF).env = [.byte 0xFF] := by decide
theorem witness_RsCapture : (gated .readingStart 6 0 0x3C).state = .readingStart ∧
    6 ≤ (gated .readingStart 6 0 0x3C).mi.toNat ∧ (gated .readingStart 6 0 0x3C).ready = false ∧
    (gated .readingStart 6 0 0x3C).env = [.byte 0x3C] := by decide
theorem witness_RsMatch : (gated .readingStart 5 0 0x3E).state = .readingStart ∧
    startMarker[(gated .readingStart 5 0 0x3E).mi.toNat]? = some 0x3E ∧ (gated .readingStart 5 0 0x3E).mi = 5 ∧
    (gated .readingStart 5 0 0x3E).ready = false ∧ (gated .readingStart 5 0 0x3E).env = [.byte 0x3E] := by decide
theorem witness_matchIndexes : ∀ k ∈ [0, 1, 2, 3, 4, 5], (mk .readingStart k 0 false).mi = k ∧
    (mk .readingEnd k 1 false).mi = k := by decide
theorem witness_RsAbort : (gated .readingStart 5 0 0x3C).state = .readingStart ∧
    (gated .readingStart 5 0 0x3C).mi.toNat < 6 ∧ startMarker[(gated .readingStart 5 0 0x3C).mi.toNat]? ≠ some 0x3C ∧
    (gated .readingStart 5 0 0x3C).ready = false ∧ (gated .readingStart 5 0 0x3C).env = [.byte 0x3C] := by decide
theorem witness_RdTent : (gated .readingData 6 63 0x3C).state = .readingData ∧ (gated .readingData 6 63 0x3C).ready = false ∧
    (gated .readingData 6 63 0x3C).env = [.byte 0x3C] := by decide
theorem witness_RdAppend : (gated .readingData 6 63 0x2F).state = .readingData ∧ (0x2F : Byte) ≠ 0x3C ∧
    (gated .readingData 6 63 0x2F).ready = false ∧ (gated .readingData 6 63 0x2F).env = [.byte 0x2F] := by decide
theorem witness_ReDone : (gated .readingEnd 6 10 0x58).state = .readingEnd ∧ 6 ≤ (gated .readingEnd 6 10 0x58).mi.toNat ∧
    (gated .readingEnd 6 10 0x58).ready = false ∧ (gated .readingEnd 6 10 0x58).env = [.byte 0x58] ∧
    resetPending (mk .standby 6 0 true) = false := by decide
theorem witness_ReDone_onlySetter : ∃ i s t, exec i s = .next t ∧ s.ready = false ∧ t.ready = true :=
  ⟨.reDone 6 0x3E, mk .readingEnd 6 1 false, _, rfl, rfl, rfl⟩
theorem witness_ReMatch : (gated .readingEnd 5 10 0x61).state = .readingEnd ∧ (gated .readingEnd 5 10 0x61).mi.toNat < 6 ∧
    endMarker[(gated .readingEnd 5 10 0x61).mi.toNat]? = some 0x61 ∧ (gated .readingEnd 5 10 0x61).ready = false ∧
    (gated .readingEnd 5 10 0x61).env = [.byte 0x61] := by decide
theorem witness_ReBacktrack : (gated .readingEnd 5 58 0x21).state = .readingEnd ∧
    (gated .readingEnd 5 58 0x21).mi.toNat < 6 ∧ endMarker[(gated .readingEnd 5 58 0x21).mi.toNat]? ≠ some 0x21 ∧
    (gated .readingEnd 5 58 0x21).ready = false ∧ (gated .readingEnd 5 58 0x21).env = [.byte 0x21] := by decide
/-- One cell for each clause of the replay's buffer: below `wi`, a replayed byte, the failing byte, beyond it; and with
saturation cell 62, cell 63 (95_test_vectors D9). -/
theorem witness_ReBacktrack_cells :
    [9, 10, 14, 15, 16].map ((cells (feed 0x21 (mk .readingEnd 5 10 false))).read ·) = [0, 0x3C, 0x74, 0x21, 0] ∧
    [57, 58, 62, 63].map ((cells (feed 0x21 (mk .readingEnd 5 58 false))).read ·) = [0, 0x3C, 0x74, 0x21] ∧
    [58, 59, 62, 63].map ((cells (feed 0x21 (mk .readingEnd 5 59 false))).read ·) = [0, 0x3C, 0x61, 0x21] := by decide
theorem witness_UnreachableRegisterValues : (mk .readingStart 0 0 false).mi = 0 ∧ (mk .readingStart 7 0 false).mi = 7 ∧
    (mk .readingEnd 0 10 false).mi = 0 ∧ (mk .readingEnd 7 10 false).mi = 7 ∧ (mk .readingData 6 0 false).wi = 0 ∧
    (mk .readingStart 0 0 false).state = .readingStart ∧ (mk .readingEnd 0 10 false).state = .readingEnd ∧
    (mk .readingData 6 0 false).state = .readingData ∧ (0x64 : Byte) ≠ 0x3C := by decide
theorem witness_BareFunction : ∃ (b : Byte) (s t : State), feed b { s with ready := false } = .next t :=
  ⟨0x58, mk .readingEnd 6 10 true, _, rfl⟩

/-- A one-byte frame as pending inputs after reset. -/
def oneByteFrame : List EnvInput := asInputs (frameBytes [0x5A])

theorem witness_Publish : ∃ s, Reachable s ∧ s.ready = true ∧ resetPending s = false :=
  ⟨_, ⟨14, oneByteFrame, rfl⟩, rfl, rfl⟩
theorem witness_PublishIdle : (mk .readingData 6 12 false).ready = false ∧ (mk .readingData 6 12 false).env = [] ∧
    (mk .readingEnd 3 17 false [.gap, .gap, .byte 0x64]).env = List.replicate 2 .gap ++ [.byte 0x64] ∧
    (mk .readingEnd 3 17 false [.gap, .gap, .byte 0x64]).ready = false := by decide
theorem witness_FrameDependsOnThresholdOnly : ∃ s t s' t' : State, s.buf ≠ t.buf ∧
    (∀ a, (127 ≤ (s.buf.read a).toNat ↔ 127 ≤ (t.buf.read a).toNat)) ∧
    exec .publish s = .next s' ∧ exec .publish t = .next t' :=
  ⟨{ mk .standby 6 0 true with buf := [(3, 0x7F), (4, 0x7E)] }, { mk .standby 6 0 true with buf := [(3, 0xFF)] }, _, _,
    by decide, by decide, rfl, rfl⟩
theorem witness_StepRuns : resetPending (gated .standby 0 0 0x41) = false ∧ resetPending (mk .standby 6 0 true) = false ∧
    (mk .standby 6 0 true).ready = true ∧ (gated .standby 0 0 0x41).env = [.byte 0x41] ∧
    (mk .standby 6 0 false [.gap]).env = [.gap] ∧ (mk .standby 6 0 false).env = [] ∧
    (mk .standby 6 0 false).ready = false := by decide
theorem witness_Gate : ∃ s t : State, s.ready = true ∧ resetPending s = false ∧ s.env = [.byte 0x3C] ∧ step s = .next t :=
  ⟨mk .standby 6 0 true [.byte 0x3C], _, rfl, rfl, rfl, rfl⟩
theorem witness_Reset : (mk .readingData 6 9 true [.reset, .byte 0x41]).env = .reset :: [.byte 0x41] := by decide
theorem witness_MarkerIndexZero : ∃ s, Reachable s ∧ s.mi = 0 ∧ s.env = [] :=
  ⟨_, ⟨1, [.byte 0x41], rfl⟩, rfl, rfl⟩
theorem witness_Handshake : inValidSignal (gated .standby 0 0 0x41) = true ∧ inReadySignal (gated .standby 0 0 0x41) = true ∧
    inReadySignal (mk .standby 6 0 true [.byte 0x41]) = false ∧ rstSignal (mk .standby 6 0 true [.reset]) = true ∧
    rstSignal (gated .standby 0 0 0x41) = false := by decide
theorem witness_Handshake_step : ∃ t, step (gated .standby 0 0 0x41) = .next t := ⟨_, rfl⟩
theorem witness_OperationFrames : ∃ t, exec (.rdTent 6) (mk .readingData 6 9 false) = .next t := ⟨_, rfl⟩
theorem witness_StepKeepsCanonicalBuffer : ∃ t, Memory.wf ({ gated .readingData 6 9 0 with buf := bufD16 } : State).buf ∧
    step { gated .readingData 6 9 0 with buf := bufD16 } = .next t := ⟨_, by decide, rfl⟩
theorem witness_ReachInv : ReachInv (gated .readingEnd 5 63 0x21) :=
  ⟨by decide, by decide, by decide, by decide, by decide, by decide⟩
theorem witness_ReachInv_ready : ReachInv (mk .standby 6 0 true) :=
  ⟨by decide, by decide, by decide, by decide, by decide, by decide⟩
theorem witness_Reachable : ∃ s, Reachable s ∧ s.state = .readingData := ⟨_, ⟨7, oneByteFrame, rfl⟩, rfl⟩
theorem witness_Flag_set : ∃ s t : State, step s = .next t ∧ s.ready = false ∧ t.ready = true ∧
    decode (fetchWord s) = .reDone 6 0x3E :=
  ⟨gated .readingEnd 6 10 0x3E, _, rfl, rfl, rfl, by decide⟩
theorem witness_Flag_clear : ∃ s t : State, step s = .next t ∧ s.ready = true ∧ t.ready = false ∧
    decode (fetchWord s) = .publish := ⟨mk .standby 6 0 true, _, rfl, rfl, rfl, by decide⟩
theorem witness_OpenFrame : ∃ s t : State, s.state.filling = true ∧ step s = .next t ∧ t.state.filling = false :=
  ⟨gated .readingEnd 6 10 0x3C, _, rfl, rfl, rfl⟩
theorem witness_BufferNeverSteers : ∃ s t s' t' : State, SameControl s t ∧ s.buf ≠ t.buf ∧ run 1 s = .next s' ∧
    run 1 t = .next t' :=
  ⟨gated .readingData 6 9 0x41, { gated .readingData 6 9 0x41 with buf := bufD16 }, _, _, ⟨rfl, rfl, rfl, rfl, rfl⟩,
    by decide, rfl, rfl⟩
theorem witness_StaleRegisters : ∃ s t s' t' : State, StaleEq s t ∧ s.mi ≠ t.mi ∧ s.wi ≠ t.wi ∧ run 1 s = .next s' ∧
    run 1 t = .next t' :=
  ⟨gated .standby 2 0 0x3C, gated .standby 6 9 0x3C, _, _,
    ⟨rfl, rfl, rfl, rfl, rfl, by decide, by decide⟩, by decide, by decide, rfl, rfl⟩
theorem witness_Schedule : ∃ t₁ t₂, withoutGaps [.gap, .byte 0x41, .gap] = withoutGaps [.byte 0x41] ∧
    run 3 { State.reset with env := [.gap, .byte 0x41, .gap] } = .next t₁ ∧
    run 1 { State.reset with env := [.byte 0x41] } = .next t₂ ∧ Quiescent t₁ ∧ Quiescent t₂ :=
  ⟨_, _, by decide, rfl, rfl, ⟨rfl, rfl⟩, ⟨rfl, rfl⟩⟩
theorem witness_Drained : EnvInput.reset ∉ oneByteFrame ∧
    ∃ u, run 14 { State.reset with env := oneByteFrame } = .next u ∧ u.ready = true := ⟨by decide, _, rfl, rfl⟩
/-- Thirteen bytes of a longer stream have been fed. -/
theorem witness_FourteenBytes : ∃ t, run 13 { State.reset with env := oneByteFrame ++ [.byte 0x41] } = .next t ∧
    (inputBytes (oneByteFrame ++ [.byte 0x41])).length < (inputBytes t.env).length + 14 := ⟨_, rfl, by decide⟩
/-- Two bytes short of a complete frame, both pending. -/
def twoLeft : State := mk .readingEnd 5 1 false [.byte 0x61, .byte 0x3E]

/-- The last step that the count allows, one byte before the frame is complete, with one byte left out of it. -/
theorem witness_StepCounts : ∃ t, twoLeft.ready = false ∧ twoLeft.trace = [] ∧
    (inputBytes twoLeft.env).length < bytesToFrame twoLeft + 1 ∧ step twoLeft = .next t ∧ 1 ≤ (inputBytes t.env).length :=
  ⟨_, rfl, rfl, by decide, rfl, by decide⟩
theorem witness_Frame : ∃ s : State, s.state = .standby ∧ s.ready = false ∧
    s.env = asInputs (frameBytes (0x3C :: [0x3C, 0x2F, 0x3C, 0x41])) ++ [.gap] ∧
    endScan 0 [0x3C, 0x2F, 0x3C, 0x41] = some 0 :=
  ⟨mk .standby 3 9 false (asInputs (frameBytes (0x3C :: [0x3C, 0x2F, 0x3C, 0x41])) ++ [.gap]), rfl, rfl, rfl, by decide⟩
/-- Both ways the conditions of 40_frame_decoder R135 fail: the frame ends early, the payload ends in a match. -/
theorem witness_Frame_conditions_fail : endScan 0 [0x3C, 0x2F, 0x64, 0x61, 0x74, 0x61, 0x43] = none ∧
    endScan 0 [0x41, 0x3C] = some 1 := by decide
/-- Each clause of the cell function at its boundary: a payload of 63, 64 and 65 bytes. -/
theorem witness_payloadCell :
    payloadCell (List.replicate 63 0x41) 62 0 = 0x41 ∧ payloadCell (List.replicate 63 0x41) 63 0x07 = 0x07 ∧
    payloadCell (List.replicate 63 0x41 ++ [0x42]) 63 0 = 0x42 ∧
    payloadCell (List.replicate 64 0x41 ++ [0x43]) 63 0 = 0x43 := by decide
theorem witness_FrameWithoutOpener : ∃ s : State, s.state = .standby ∧ s.ready = false ∧
    s.env = asInputs (frameBytes (0x3C :: [0x7F, 0x2F])) ++ [.byte 0x3C] ∧ (0x3C : Byte) ∉ [0x7F, 0x2F] :=
  ⟨mk .standby 3 9 false (asInputs (frameBytes (0x3C :: [0x7F, 0x2F])) ++ [.byte 0x3C]), rfl, rfl, rfl, by decide⟩
/-- The frame's last state has no reset pending. -/
theorem witness_FrameWithoutOpener_noReset :
    ∃ t, run 14 { State.reset with env := oneByteFrame ++ [.byte 0x3C] } = .next t ∧ resetPending t = false ∧
      t.ready = true := ⟨_, rfl, rfl, rfl⟩

end Sys2Proof.Tests
end

