-- ==== Sys2Proof/Proofs/StateFrames.lean ====
section
/-! SUPPORT. What an operation leaves unchanged, item by item of the table of 10_state R46, and which operation a step
selects by the flag (30_encoding R86, 42_control_loop R170). -/

namespace Sys2Proof.Machine

/-- Settles O33, by the effect of each operation. -/
theorem operationFrames : Obligations.OperationFrames := by
  intro i s t h
  rcases exec_cases h with ⟨mi, rfl, rfl⟩ | ⟨-, rfl⟩ | ⟨mi, b, rfl, rfl⟩ | ⟨hmatch, rfl⟩ | ⟨mi, b, rfl, rfl⟩ |
    ⟨mi, rfl, rfl⟩ | ⟨mi, b, rfl, rfl⟩ | ⟨mi, b, rfl, rfl⟩ | ⟨mi, b, rfl, rfl⟩ | ⟨rfl, rfl⟩
  -- The table leaves `mi` to the rows of `RS_MATCH` and `RE_MATCH`, which are known by `isMatchRow` only.
  case inr.inr.inr.inl => simp [hmatch]
  all_goals simp

/-- Only `RE_DONE` sets the flag (10_state R26). -/
theorem eq_reDone_of_exec_sets_ready {i : Instr} {s t : State} (h : exec i s = .next t) (hs : s.ready = false)
    (ht : t.ready = true) : ∃ mi b, i = .reDone mi b := by
  obtain ⟨-, -, hready, -⟩ := operationFrames i s t h
  by_contra hne
  by_cases hp : i = .publish
  · subst hp
    cases h
    simp at ht
  · have := hready (fun mi b e => hne ⟨mi, b, e⟩) hp
    simp [hs, ht] at this

/-- Every operation keeps the canonical form of the buffer. -/
theorem exec_keeps_wf {i : Instr} {s t : State} (hs : s.buf.wf) (h : exec i s = .next t) : t.buf.wf := by
  rcases exec_cases h with ⟨_, _, rfl⟩ | ⟨_, rfl⟩ | ⟨_, b, _, rfl⟩ | ⟨_, rfl⟩ | ⟨_, _, _, rfl⟩ | ⟨_, _, rfl⟩ |
    ⟨_, b, _, rfl⟩ | ⟨_, _, _, rfl⟩ | ⟨_, b, _, rfl⟩ | ⟨_, rfl⟩
  · exact hs
  · exact hs
  · exact write_wf 0 b hs
  · exact hs
  · exact hs
  · exact hs
  · exact write_wf s.wi b hs
  · exact hs
  · exact write_wf _ b (appendAll_wf (heldBack s.mi) hs)
  · exact hs

/-- Every step keeps the canonical form of the buffer. -/
theorem step_keeps_wf {s t : State} (hs : s.buf.wf) (h : step s = .next t) : t.buf.wf := by
  rcases step_cases h with ⟨rest, -, rfl⟩ | ⟨-, -, rfl⟩ | ⟨-, -, rfl⟩ | ⟨b, rest, -, -, hfeed⟩
  · exact reset_buf_wf
  · exact hs
  · exact hs
  · exact exec_keeps_wf (s := { s with env := rest }) hs hfeed

/-- No selector word of a fed byte picks `PUBLISH` (30_encoding R83). -/
theorem decode_selectorOf_ne_publish (b : Byte) (s : State) : decode (.sel (selectorOf b s)) ≠ .publish := by
  have hstart (mi : MarkerIndex) : startMatchRow mi ≠ .publish := by unfold startMatchRow; split <;> simp
  have hend (mi : MarkerIndex) : endMatchRow mi ≠ .publish := by unfold endMatchRow; split <;> simp
  rw [decode_selectorOf]
  cases s.state with
  | standby => simp only [decodeStandby]; split <;> simp
  | readingStart => simp only [decodeReadingStart]; split_ifs <;> simp [hstart]
  | readingData => simp only [decodeReadingData]; split <;> simp
  | readingEnd => simp only [decodeReadingEnd]; split_ifs <;> simp [hend]

/-- The publisher's operation is selected by the flag alone (30_encoding R86). -/
theorem decode_commandOf (s : State) :
    decode (.cmd (commandOf s)) = if s.ready then .publish else .publishIdle := by
  unfold commandOf
  cases s.ready <;> rfl

/-- The loop selects `PUBLISH` exactly while a frame waits (42_control_loop R170). -/
theorem decode_fetchWord_eq_publish_iff (s : State) : decode (fetchWord s) = .publish ↔ s.ready = true := by
  cases hready : s.ready with
  | true => simp [fetchWord, decode_commandOf, hready]
  | false =>
    cases hbyte : availableByte s with
    | some b => simpa [fetchWord, hready, hbyte] using decode_selectorOf_ne_publish b s
    | none => simp [fetchWord, decode_commandOf, hready, hbyte]

/-- With the gate open the head byte selects (42_control_loop R171). -/
theorem fetchWord_of_byte {b : Byte} {s : State} {rest : List EnvInput} (hready : s.ready = false)
    (henv : s.env = .byte b :: rest) : fetchWord s = .sel (selectorOf b s) := by
  simp [fetchWord, availableByte, hready, henv]

/-- Settles O38: of the four kinds of step only a fed byte can set the flag, and then by `RE_DONE`; with the flag set
the loop selects `PUBLISH` and nothing else. -/
theorem flagHasOneSetterAndOneClearer : Obligations.FlagHasOneSetterAndOneClearer := by
  intro s t h
  refine ⟨fun hs ht => ?_, fun hs _ => .inr ((decode_fetchWord_eq_publish_iff s).2 hs), fun ⟨mi, b, hdone⟩ => ?_,
    (decode_fetchWord_eq_publish_iff s).1⟩
  · rcases step_cases h with ⟨rest, -, rfl⟩ | ⟨-, -, rfl⟩ | ⟨-, -, rfl⟩ | ⟨b, rest, -, henv, hfeed⟩
    · simp at ht
    · simp at ht
    · simp [hs] at ht
    · rw [fetchWord_of_byte hs henv]
      exact ⟨by simp [resetPending, henv], eq_reDone_of_exec_sets_ready (s := { s with env := rest }) hfeed hs ht⟩
  · have : decode (fetchWord s) ≠ .publish := by simp [hdone]
    simpa [decode_fetchWord_eq_publish_iff] using this

end Sys2Proof.Machine
end

