-- ==== Sys2Proof/Proofs/StateInvariant.lean ====
section
/-! SUPPORT. The invariants I1 to I7 of 10_state R35: after reset, kept by every step, so of every reachable state. -/

namespace Sys2Proof.Machine

/-- Settles O28. -/
theorem resetStateAndWriteIndex : Obligations.ResetStateAndWriteIndex := ⟨rfl, rfl, rfl⟩

/-- Settles O29: no cell is listed after reset. -/
theorem resetFlagBufferAndTrace : Obligations.ResetFlagBufferAndTrace := ⟨rfl, read_nil, rfl⟩

/-- What is left of the invariants while the gate is open. -/
theorem reachInv_of_not_ready {s : State} (hready : s.ready = false)
    (hmatching : s.state.matching = true → 1 ≤ s.mi.toNat) (hmi : s.mi.toNat ≤ 6)
    (hfilling : s.state.filling = true → 1 ≤ s.wi.toNat) (hidle : s.state.filling = false → s.wi = 0) :
    ReachInv s where
  wiBound := Nat.le_of_lt_succ s.wi.isLt
  miMatching h := ⟨hmatching h, hmi⟩
  miBound := hmi
  readyMeansDone h := by simp [hready] at h
  wiFilling := hfilling
  wiIdle := hidle

theorem reachInv_takeReset (rest : List EnvInput) : ReachInv (takeReset rest) :=
  reachInv_of_not_ready rfl (by simp [DecoderState.matching]) (by simp) (by simp [DecoderState.filling]) (by simp)

/-- Settles O36. -/
theorem reachInvAfterReset : Obligations.ReachInvAfterReset := fun env => ⟨reachInv_takeReset env, reset_buf_wf⟩

/-- The invariants speak of the registers alone, and clearing the flag only weakens them. -/
theorem ReachInv.of_registers {s t : State} (hs : ReachInv s) (hstate : t.state = s.state) (hmi : t.mi = s.mi)
    (hwi : t.wi = s.wi) (hready : t.ready = true → s.ready = true) : ReachInv t where
  wiBound := hwi ▸ hs.wiBound
  miMatching := hstate ▸ hmi ▸ hs.miMatching
  miBound := hmi ▸ hs.miBound
  readyMeansDone h := hstate ▸ hmi ▸ hwi ▸ hs.readyMeansDone (hready h)
  wiFilling := hstate ▸ hwi ▸ hs.wiFilling
  wiIdle := hstate ▸ hwi ▸ hs.wiIdle

/-- `mi + 1` does not wrap below 6, where alone a matched byte advances it (40_frame_decoder R117, R127). -/
theorem toNat_add_one_of_lt_six {mi : MarkerIndex} (h : ¬ 6 ≤ mi.toNat) : (mi + 1).toNat = mi.toNat + 1 := by
  have h1 : (1 : MarkerIndex).toNat = 1 := rfl
  rw [BitVec.toNat_add, h1]
  omega

/-- A matched byte below index 6 keeps the invariants, in `ReadingStart` and in `ReadingEnd`. -/
theorem advanceMarker_keeps_reachInv {s : State} (hs : ReachInv s) (hready : s.ready = false)
    (h : ¬ 6 ≤ s.mi.toNat) : ReachInv (advanceMarker s) := by
  have hmi := toNat_add_one_of_lt_six h
  exact reachInv_of_not_ready hready (fun _ => by rw [advanceMarker_mi, hmi]; omega)
    (by rw [advanceMarker_mi, hmi]; omega)
    hs.wiFilling hs.wiIdle

/-- `Append` never leaves `wi` at 0 (40_frame_decoder R110). -/
theorem one_le_append_wi (b : Byte) (s : State) : 1 ≤ (append b s).wi.toNat := by
  rw [append_wi, nextWriteIndex_toNat]
  omega

/-- A byte fed with the gate open keeps the invariants. -/
theorem feed_keeps_reachInv {b : Byte} {s t : State} (hs : ReachInv s) (hready : s.ready = false)
    (h : feed b s = .next t) : ReachInv t := by
  have hmi := hs.miBound
  cases hstate : s.state with
  | standby =>
    have hwi : s.wi = 0 := hs.wiIdle (by simp [hstate, DecoderState.filling])
    rw [feed_standby hstate] at h
    cases h
    split
    · exact reachInv_of_not_ready hready (by simp) (by simp) (by simp [DecoderState.filling]) fun _ => hwi
    · exact hs
  | readingStart =>
    have hwi : s.wi = 0 := hs.wiIdle (by simp [hstate, DecoderState.filling])
    rw [feed_readingStart hstate] at h
    cases h
    split_ifs with h6 hmatch
    · exact reachInv_of_not_ready hready (by simp [DecoderState.matching]) hmi (by simp) (by simp [DecoderState.filling])
    · exact advanceMarker_keeps_reachInv hs hready h6
    · exact reachInv_of_not_ready hready (by simp [DecoderState.matching]) hmi (by simp [DecoderState.filling])
        fun _ => hwi
  | readingData =>
    have hwi : 1 ≤ s.wi.toNat := hs.wiFilling (by simp [hstate, DecoderState.filling])
    rw [feed_readingData hstate] at h
    cases h
    split
    · exact reachInv_of_not_ready hready (by simp) (by simp) (fun _ => hwi) (by simp [DecoderState.filling])
    · exact reachInv_of_not_ready hready (by simp [hstate, DecoderState.matching]) hmi
        (fun _ => one_le_append_wi b s) (by simp [hstate, DecoderState.filling])
  | readingEnd =>
    rw [feed_readingEnd hstate] at h
    cases h
    split_ifs with h6 hmatch
    · have hmi6 : s.mi = 6 := BitVec.eq_of_toNat_eq (Nat.le_antisymm hmi h6)
      exact ⟨by simp, by simp [DecoderState.matching], hmi, by simp [hmi6], by simp [DecoderState.filling], by simp⟩
    · exact advanceMarker_keeps_reachInv hs hready h6
    · exact reachInv_of_not_ready (by simpa using hready) (by simp [DecoderState.matching]) (by simpa using hmi)
        (fun _ => one_le_append_wi b _) (by simp [DecoderState.filling])

/-- Settles O35: a reset establishes the invariants, a publisher step writes no register they restrict further, and the
gate lets a byte be fed only with the flag clear. -/
theorem stepKeepsReachInv : Obligations.StepKeepsReachInv := by
  intro s t hs h
  rcases step_cases h with ⟨rest, -, rfl⟩ | ⟨-, -, rfl⟩ | ⟨-, -, rfl⟩ | ⟨b, rest, hready, -, hfeed⟩
  · exact reachInv_takeReset rest
  · exact hs.of_registers rfl rfl rfl (by simp)
  · exact hs.of_registers rfl rfl rfl id
  · exact feed_keeps_reachInv (s := { s with env := rest }) (hs.of_registers rfl rfl rfl id) hready hfeed

/-- Every reachable state satisfies I1 to I7 (10_state R35). -/
theorem reachInv_of_reachable {s : State} (h : Reachable s) : ReachInv s :=
  reachable_of_keeps reachInv_takeReset stepKeepsReachInv h

/-- The buffer of every reachable state is in the canonical form. -/
theorem buf_wf_of_reachable {s : State} (h : Reachable s) : s.buf.wf :=
  reachable_of_keeps (P := fun s => s.buf.wf) (fun _ => reset_buf_wf) (fun _ _ => step_keeps_wf) h

/-- Settles O37; `mi` is not 7 by I3. -/
theorem reachableStatesAreBounded : Obligations.ReachableStatesAreBounded := fun s h =>
  have hinv := reachInv_of_reachable h
  ⟨hinv, fun h7 => absurd hinv.miBound (by simp [h7]), buf_wf_of_reachable h⟩

/-! ## `mi = 0` only as reset left it (10_state R41) -/

/-- No transition brings `mi` back to 0: it keeps `mi`, sets it to 1, or advances it below 6. -/
theorem mi_eq_zero_of_feed {b : Byte} {s t : State} (h : feed b s = .next t) (ht : t.mi = 0) : s.mi = 0 := by
  have hadvance (hlt : ¬ 6 ≤ s.mi.toNat) : s.mi + 1 ≠ 0 := fun h0 => by
    have := toNat_add_one_of_lt_six hlt
    rw [h0] at this
    simp at this
  cases hstate : s.state with
  | standby =>
    rw [feed_standby hstate] at h
    cases h
    split at ht
    · simp at ht
    · exact ht
  | readingStart =>
    rw [feed_readingStart hstate] at h
    cases h
    split_ifs at ht with h6 hmatch
    · exact ht
    · exact absurd ht (hadvance h6)
    · exact ht
  | readingData =>
    rw [feed_readingData hstate] at h
    cases h
    split at ht
    · simp at ht
    · exact ht
  | readingEnd =>
    rw [feed_readingEnd hstate] at h
    cases h
    split_ifs at ht with h6 hmatch
    · exact ht
    · exact absurd ht (hadvance h6)
    · simpa using ht

/-- A byte fed to the reset state leaves `mi` at 0 only if it is discarded. -/
theorem feed_takeReset_of_mi_eq_zero {b : Byte} {rest : List EnvInput} {t : State}
    (h : feed b (takeReset rest) = .next t) (ht : t.mi = 0) : t = takeReset rest := by
  rw [feed_standby rfl] at h
  cases h
  split at ht
  · simp at ht
  · rw [if_neg ‹_›]

/-- While `mi` is 0 the state is the reset state but for the pending inputs. -/
def AsResetWhileMiZero (s : State) : Prop := s.mi = 0 → s = { State.reset with env := s.env }

theorem step_keeps_asResetWhileMiZero (s t : State) (hs : AsResetWhileMiZero s) (h : step s = .next t) :
    AsResetWhileMiZero t := by
  intro ht
  rcases step_cases h with ⟨rest, -, rfl⟩ | ⟨hready, -, rfl⟩ | ⟨-, -, rfl⟩ | ⟨b, rest, -, -, hfeed⟩
  · rfl
  · rw [hs ht] at hready
    cases hready
  · have hreset := hs ht
    rw [hreset]
  · have hreset := hs (mi_eq_zero_of_feed (s := { s with env := rest }) hfeed ht)
    rw [hreset] at hfeed
    rw [feed_takeReset_of_mi_eq_zero hfeed ht]
    rfl

/-- Settles O30: the property holds after reset and every step keeps it. -/
theorem markerIndexZeroOnlyAtReset : Obligations.MarkerIndexZeroOnlyAtReset :=
  ⟨rfl, fun _ h => reachable_of_keeps (fun _ _ => rfl) step_keeps_asResetWhileMiZero h⟩

end Sys2Proof.Machine
end

/-! SUPPORT. The pixel buffer: every step keeps its canonical form (20_memory R50, R54), and its contents and those of
the display trace never reach the decoder's registers, the flag or the pending inputs (20_memory R55, R63). -/

namespace Sys2Proof.Machine

/-- Settles O34: the transitions that store write the buffer by `MemWrite` alone, and a reset empties it. -/
theorem stepKeepsCanonicalBuffer : Obligations.StepKeepsCanonicalBuffer := fun _ _ => step_keeps_wf

/-! ## The same operation is selected -/

theorem SameControl.resetPending_eq {s t : State} (h : SameControl s t) : resetPending s = resetPending t := by
  simp [resetPending, h.env]

/-- The selector words hold nothing of the buffer or the trace (30_encoding R81, R86). -/
theorem SameControl.fetchWord_eq {s t : State} (h : SameControl s t) : fetchWord s = fetchWord t := by
  simp [fetchWord, availableByte, selectorOf, commandOf, h.env, h.ready, h.state, h.mi]

/-! ## The same control results -/

theorem SameControl.pollInput {s t : State} (h : SameControl s t) : SameControl (pollInput s) (pollInput t) := by
  unfold Machine.pollInput
  rw [← h.ready]
  split
  · exact h
  · exact ⟨h.state, h.mi, h.wi, rfl, congrArg List.tail h.env⟩

/-- Where `Append` puts the Write Index depends on the Write Index alone (40_frame_decoder R110). -/
theorem SameControl.append {s t : State} (h : SameControl s t) (v : Byte) :
    SameControl (append v s) (append v t) :=
  ⟨h.state, h.mi, congrArg nextWriteIndex h.wi, h.ready, h.env⟩

theorem SameControl.appendAll {s t : State} (h : SameControl s t) (vs : List Byte) :
    SameControl (appendAll vs s) (appendAll vs t) := by
  induction vs generalizing s t with
  | nil => exact h
  | cons v vs ih => exact ih (h.append v)

theorem SameControl.advanceMarker {s t : State} (h : SameControl s t) :
    SameControl (advanceMarker s) (advanceMarker t) :=
  ⟨h.state, congrArg (· + 1) h.mi, h.wi, h.ready, h.env⟩

/-- The twelve rows of `RS_MATCH` and `RE_MATCH` have one effect. -/
theorem exec_of_isMatchRow {i : Instr} (h : isMatchRow i = true) (s : State) : exec i s = .next (advanceMarker s) := by
  cases i <;> cases h <;> rfl

/-- No operation reads the buffer or the trace into a register, the flag or the pending inputs. -/
theorem SameControl.exec {i : Instr} {s t s' t' : State} (h : SameControl s t) (hs : exec i s = .next s')
    (ht : exec i t = .next t') : SameControl s' t' := by
  rcases exec_cases hs with ⟨_, rfl, rfl⟩ | ⟨⟨_, _, rfl⟩ | rfl, rfl⟩ | ⟨_, _, rfl, rfl⟩ | ⟨hmatch, rfl⟩ |
    ⟨_, _, rfl, rfl⟩ | ⟨_, rfl, rfl⟩ | ⟨_, b, rfl, rfl⟩ | ⟨_, _, rfl, rfl⟩ | ⟨_, b, rfl, rfl⟩ | ⟨rfl, rfl⟩
  -- A matched row is known by `isMatchRow` only; every other case names the operation.
  case inr.inr.inr.inl =>
    rw [exec_of_isMatchRow hmatch] at ht
    cases ht
    exact h.advanceMarker
  all_goals cases ht
  · exact ⟨rfl, rfl, h.wi, h.ready, h.env⟩
  · exact h
  · exact h
  · exact ⟨rfl, h.mi, rfl, h.ready, h.env⟩
  · exact ⟨rfl, h.mi, h.wi, h.ready, h.env⟩
  · exact ⟨rfl, rfl, h.wi, h.ready, h.env⟩
  · exact h.append b
  · exact ⟨rfl, h.mi, rfl, rfl, h.env⟩
  · have happend := (h.appendAll (heldBack s.mi)).append b
    rw [← h.mi]
    exact ⟨rfl, happend.mi, happend.wi, happend.ready, happend.env⟩
  · exact ⟨h.state, h.mi, h.wi, rfl, h.env⟩

/-- A step selects the same operation in both states and runs it, or takes the same reset. -/
theorem SameControl.step {s t s' t' : State} (h : SameControl s t) (hs : step s = .next s')
    (ht : step t = .next t') : SameControl s' t' := by
  unfold Machine.step at hs ht
  rw [← h.resetPending_eq, ← h.fetchWord_eq] at ht
  split at hs
  · rw [if_pos ‹_›] at ht
    cases hs
    cases ht
    exact ⟨rfl, rfl, rfl, rfl, congrArg List.tail h.env⟩
  · rw [if_neg ‹_›] at ht
    exact h.pollInput.exec hs ht

/-! ## Runs -/

/-- The first step of a run that answers a next state answers one. -/
theorem exists_step_of_run_succ {n : Nat} {s t : State} (h : run (n + 1) s = .next t) :
    ∃ u, step s = .next u ∧ run n u = .next t := by
  cases hstep : step s with
  | next u => exact ⟨u, rfl, run_succ hstep ▸ h⟩
  | fault r => cases r
  | refused r => simp [run, hstep] at h

/-- A relation that steps keep is kept by two runs of equal length. -/
theorem run_keeps_rel {R : State → State → Prop}
    (keeps : ∀ s t s' t', R s t → step s = .next s' → step t = .next t' → R s' t') {n : Nat} {s t s' t' : State}
    (h : R s t) (hs : run n s = .next s') (ht : run n t = .next t') : R s' t' := by
  induction n generalizing s t with
  | zero =>
    cases hs
    cases ht
    exact h
  | succ n ih =>
    obtain ⟨u, hsu, hs⟩ := exists_step_of_run_succ hs
    obtain ⟨v, htv, ht⟩ := exists_step_of_run_succ ht
    exact ih (keeps s t u v h hsu htv) hs ht

/-- Settles O40: every step keeps the relation, so two runs of equal length do. -/
theorem bufferNeverSteersTheDecoder : Obligations.BufferNeverSteersTheDecoder :=
  fun _ _ _ _ _ h => run_keeps_rel (fun _ _ _ _ => SameControl.step) h

end Sys2Proof.Machine

/-! SUPPORT. The decoder and the encoder are inverse to each other, and the decoder agrees with the rows of the opcode
table (30_encoding R81 to R88). -/

namespace Sys2Proof

open Machine

/-! ## The decoder, row by row of a group (30_encoding R82, R83) -/

theorem decodeStandby_of_ne {mi : MarkerIndex} {b : Byte} (hb : b ≠ markerOpen) : decodeStandby mi b = .sbSkip mi b :=
  if_neg hb

theorem decodeReadingStart_of_le {mi : MarkerIndex} {b : Byte} (h : Config.lenStartMarker ≤ mi.toNat) :
    decodeReadingStart mi b = .rsCapture mi b :=
  if_pos h

theorem decodeReadingStart_of_not_matches {mi : MarkerIndex} {b : Byte} (h : mi.toNat < Config.lenStartMarker)
    (hb : matchesStart mi b = false) : decodeReadingStart mi b = .rsAbort mi b := by
  simp [decodeReadingStart, hb, Nat.not_le.2 h]

theorem decodeReadingData_of_ne {mi : MarkerIndex} {b : Byte} (hb : b ≠ markerOpen) :
    decodeReadingData mi b = .rdAppend mi b :=
  if_neg hb

theorem decodeReadingEnd_of_le {mi : MarkerIndex} {b : Byte} (h : Config.lenEndMarker - 1 ≤ mi.toNat) :
    decodeReadingEnd mi b = .reDone mi b :=
  if_pos h

theorem decodeReadingEnd_of_not_matches {mi : MarkerIndex} {b : Byte} (h : mi.toNat < Config.lenEndMarker - 1)
    (hb : matchesEnd mi b = false) : decodeReadingEnd mi b = .reBacktrack mi b := by
  simp [decodeReadingEnd, hb, Nat.not_le.2 h]

/-- Settles O1: the condition of a row on its free bits is what the tests of its group leave to it; the words of the
rows without free bits are literals. -/
theorem decodeOfEncode : Obligations.DecodeOfEncode := by
  intro i h
  cases i with
  | sbArm mi => exact decode_sel_selectorWord 0b00 mi 0x3C
  | sbSkip mi b => exact (decode_sel_selectorWord 0b00 mi b).trans (decodeStandby_of_ne (bne_iff_ne.1 h))
  | rsCapture mi b => exact (decode_sel_selectorWord 0b01 mi b).trans (decodeReadingStart_of_le (of_decide_eq_true h))
  | rsAbort mi b =>
    obtain ⟨hmi, hb⟩ : mi.toNat < Config.lenStartMarker ∧ matchesStart mi b = false := by
      simpa [Instr.wellFormed] using h
    exact (decode_sel_selectorWord 0b01 mi b).trans (decodeReadingStart_of_not_matches hmi hb)
  | rdTent mi => exact decode_sel_selectorWord 0b10 mi 0x3C
  | rdAppend mi b => exact (decode_sel_selectorWord 0b10 mi b).trans (decodeReadingData_of_ne (bne_iff_ne.1 h))
  | reDone mi b => exact (decode_sel_selectorWord 0b11 mi b).trans (decodeReadingEnd_of_le (of_decide_eq_true h))
  | reBacktrack mi b =>
    obtain ⟨hmi, hb⟩ : mi.toNat < Config.lenEndMarker - 1 ∧ matchesEnd mi b = false := by
      simpa [Instr.wellFormed] using h
    exact (decode_sel_selectorWord 0b11 mi b).trans (decodeReadingEnd_of_not_matches hmi hb)
  | rsMatch0 | rsMatch1 | rsMatch2 | rsMatch3 | rsMatch4 | rsMatch5 => rfl
  | reMatch0 | reMatch1 | reMatch2 | reMatch3 | reMatch4 | reMatch5 => rfl
  | publish | publishIdle => rfl

/-- Settles O4. -/
theorem tableWordsDecode : Obligations.TableWordsDecode := by
  unfold Obligations.TableWordsDecode
  decide

/-! ## Every word is the word of its operation (30_encoding R87) -/

/-- The word of a well-formed operation. -/
def IsWordOf (w : Word) (i : Instr) : Prop := i.wellFormed = true ∧ encode i = w

/-- Every selector word is one of a state, an index and a byte; all four encodings are states (10_state R21). -/
theorem exists_eq_selectorWord (w : SelectorWord) :
    ∃ (d : DecoderState) (mi : MarkerIndex) (b : Byte), w = selectorWord (stateBits d) mi b :=
  ⟨stateOfBits (selState w), selMi w, selByte w, by rw [stateBits_stateOfBits, selectorWord_of_fields]⟩

/-- The words of R84 for `RS_MATCH` are those of the bytes of `SM`. -/
theorem isWordOf_startMatchRow {mi : MarkerIndex} {b : Byte} (h : matchesStart mi b = true) :
    IsWordOf (.sel (selectorWord 0b01 mi b)) (startMatchRow mi) := by
  have hrows : ∀ mi : MarkerIndex, ∀ v ∈ startMarker[mi.toNat]?, (startMatchRow mi).wellFormed = true ∧
      encode (startMatchRow mi) = .sel (selectorWord 0b01 mi v) := by decide
  exact hrows mi b (eq_of_beq h)

/-- The words of R84 for `RE_MATCH` are those of the bytes of `EM` before the last, which is never compared. -/
theorem isWordOf_endMatchRow {mi : MarkerIndex} {b : Byte} (hmi : ¬ Config.lenEndMarker - 1 ≤ mi.toNat)
    (h : matchesEnd mi b = true) : IsWordOf (.sel (selectorWord 0b11 mi b)) (endMatchRow mi) := by
  have hrows : ∀ mi : MarkerIndex, ¬ Config.lenEndMarker - 1 ≤ mi.toNat → ∀ v ∈ endMarker[mi.toNat]?,
      (endMatchRow mi).wellFormed = true ∧ encode (endMatchRow mi) = .sel (selectorWord 0b11 mi v) := by decide
  exact hrows mi hmi b (eq_of_beq h)

theorem isWordOf_decodeStandby (mi : MarkerIndex) (b : Byte) :
    IsWordOf (.sel (selectorWord 0b00 mi b)) (decodeStandby mi b) := by
  unfold decodeStandby
  split
  · subst b
    exact ⟨rfl, rfl⟩
  · exact ⟨bne_iff_ne.2 ‹_›, rfl⟩

theorem isWordOf_decodeReadingStart (mi : MarkerIndex) (b : Byte) :
    IsWordOf (.sel (selectorWord 0b01 mi b)) (decodeReadingStart mi b) := by
  unfold decodeReadingStart
  split_ifs with hmi hb
  · exact ⟨decide_eq_true hmi, rfl⟩
  · exact isWordOf_startMatchRow hb
  · exact ⟨by simp [Instr.wellFormed, Nat.not_le.1 hmi, hb], rfl⟩

theorem isWordOf_decodeReadingData (mi : MarkerIndex) (b : Byte) :
    IsWordOf (.sel (selectorWord 0b10 mi b)) (decodeReadingData mi b) := by
  unfold decodeReadingData
  split
  · subst b
    exact ⟨rfl, rfl⟩
  · exact ⟨bne_iff_ne.2 ‹_›, rfl⟩

theorem isWordOf_decodeReadingEnd (mi : MarkerIndex) (b : Byte) :
    IsWordOf (.sel (selectorWord 0b11 mi b)) (decodeReadingEnd mi b) := by
  unfold decodeReadingEnd
  split_ifs with hmi hb
  · exact ⟨decide_eq_true hmi, rfl⟩
  · exact isWordOf_endMatchRow hmi hb
  · exact ⟨by simp [Instr.wellFormed, Nat.not_le.1 hmi, hb], rfl⟩

theorem isWordOf_decode_sel (w : SelectorWord) : IsWordOf (.sel w) (decode (.sel w)) := by
  obtain ⟨d, mi, b, rfl⟩ := exists_eq_selectorWord w
  rw [decode_sel_selectorWord]
  cases d with
  | standby => exact isWordOf_decodeStandby mi b
  | readingStart => exact isWordOf_decodeReadingStart mi b
  | readingData => exact isWordOf_decodeReadingData mi b
  | readingEnd => exact isWordOf_decodeReadingEnd mi b

theorem isWordOf_decode_cmd (w : CommandWord) : IsWordOf (.cmd w) (decode (.cmd w)) := by
  rcases BitVec.eq_zero_or_eq_one w with rfl | rfl
  · exact ⟨rfl, rfl⟩
  · exact ⟨rfl, rfl⟩

/-- Settles O2, group by group of the selector words; the two command words are checked one by one. -/
theorem encodeOfDecode : Obligations.EncodeOfDecode
  | .sel w => isWordOf_decode_sel w
  | .cmd w => isWordOf_decode_cmd w

/-! ## What a row's hit says of the fields (30_encoding R83) -/

theorem selState_and (w m : SelectorWord) : selState (w &&& m) = selState w &&& selState m :=
  BitVec.extractLsb'_and

theorem selMi_and (w m : SelectorWord) : selMi (w &&& m) = selMi w &&& selMi m :=
  BitVec.extractLsb'_and

theorem selByte_and (w m : SelectorWord) : selByte (w &&& m) = selByte w &&& selByte m :=
  BitVec.extractLsb'_and

section Hits

variable {r q : SelRow} {w : SelectorWord}

theorem and_mask_of_hits (h : selRowHits q w = true) : w &&& q.mask = q.pattern := eq_of_beq h

/-- Every row fixes the state: the rows that hit are of the word's group. -/
theorem group_eq_of_hits (hq : q ∈ selRows) (h : selRowHits q w = true) : q.group = selState w := by
  have hrows : ∀ q ∈ selRows, selState q.mask = BitVec.allOnes 2 ∧ selState q.pattern = q.group := by decide
  obtain ⟨hmask, hgroup⟩ := hrows q hq
  rw [← hgroup, ← and_mask_of_hits h, selState_and, hmask, BitVec.and_allOnes]

/-- Rows of one group and one priority exclude each other: their patterns differ in a bit both masks keep. -/
theorem eq_of_hits_of_priority_eq (hr : r ∈ selRows) (hq : q ∈ selRows) (hrw : selRowHits r w = true)
    (hqw : selRowHits q w = true) (hpriority : q.priority = r.priority) : q = r := by
  have hrows : ∀ r ∈ selRows, ∀ q ∈ selRows, q.group = r.group → q.priority = r.priority →
      q.pattern &&& r.mask = r.pattern &&& q.mask → q = r := by decide
  have hgroup : q.group = r.group := (group_eq_of_hits hq hqw).trans (group_eq_of_hits hr hrw).symm
  refine hrows r hr q hq hgroup hpriority ?_
  rw [← and_mask_of_hits hrw, ← and_mask_of_hits hqw, BitVec.and_assoc, BitVec.and_assoc, BitVec.and_comm q.mask]

theorem one_le_priority (hq : q ∈ selRows) : 1 ≤ q.priority := by
  have hrows : ∀ q ∈ selRows, 1 ≤ q.priority := by decide
  exact hrows q hq

/-- In `Standby` and `ReadingData` the row of priority 1 asks for the opening byte. -/
theorem selByte_eq_markerOpen_of_hits (hq : q ∈ selRows) (h : selRowHits q w = true)
    (hgroup : q.group = 0b00 ∨ q.group = 0b10) (hpriority : q.priority = 1) : selByte w = markerOpen := by
  have hrows : ∀ q ∈ selRows, q.group = 0b00 ∨ q.group = 0b10 → q.priority = 1 →
      selByte q.mask = BitVec.allOnes 8 ∧ selByte q.pattern = markerOpen := by decide
  obtain ⟨hmask, hpattern⟩ := hrows q hq hgroup hpriority
  rw [← hpattern, ← and_mask_of_hits h, selByte_and, hmask, BitVec.and_allOnes]

/-- In `ReadingStart` and `ReadingEnd` the row of priority 1 asks for `mi >= 6`, by its two high bits. -/
theorem six_le_selMi_of_hits (hq : q ∈ selRows) (h : selRowHits q w = true)
    (hgroup : q.group = 0b01 ∨ q.group = 0b11) (hpriority : q.priority = 1) : 6 ≤ (selMi w).toNat := by
  have hrows : ∀ q ∈ selRows, q.group = 0b01 ∨ q.group = 0b11 → q.priority = 1 →
      selMi q.mask = 6 ∧ selMi q.pattern = 6 := by decide
  have hbits : ∀ mi : MarkerIndex, mi &&& 6 = 6 → 6 ≤ mi.toNat := by decide
  obtain ⟨hmask, hpattern⟩ := hrows q hq hgroup hpriority
  refine hbits _ ?_
  rw [← hmask, ← selMi_and, and_mask_of_hits h, hpattern, hmask]

/-- A row whose mask keeps every bit hits its pattern only. -/
theorem eq_pattern_of_hits (h : selRowHits q w = true) (hmask : q.mask = BitVec.allOnes 13) : w = q.pattern := by
  rw [← and_mask_of_hits h, hmask, BitVec.and_allOnes]

/-- In `ReadingStart` the rows of priority 2 ask for the byte of `SM` (30_encoding R84). -/
theorem matchesStart_of_hits (hq : q ∈ selRows) (h : selRowHits q w = true) (hgroup : q.group = 0b01)
    (hpriority : q.priority = 2) : matchesStart (selMi w) (selByte w) = true := by
  have hrows : ∀ q ∈ selRows, q.group = 0b01 → q.priority = 2 →
      q.mask = BitVec.allOnes 13 ∧ matchesStart (selMi q.pattern) (selByte q.pattern) = true := by decide
  obtain ⟨hmask, hmatches⟩ := hrows q hq hgroup hpriority
  rwa [eq_pattern_of_hits h hmask]

/-- In `ReadingEnd` the rows of priority 2 ask for the byte of `EM` (30_encoding R84). -/
theorem matchesEnd_of_hits (hq : q ∈ selRows) (h : selRowHits q w = true) (hgroup : q.group = 0b11)
    (hpriority : q.priority = 2) : matchesEnd (selMi w) (selByte w) = true := by
  have hrows : ∀ q ∈ selRows, q.group = 0b11 → q.priority = 2 →
      q.mask = BitVec.allOnes 13 ∧ matchesEnd (selMi q.pattern) (selByte q.pattern) = true := by decide
  obtain ⟨hmask, hmatches⟩ := hrows q hq hgroup hpriority
  rwa [eq_pattern_of_hits h hmask]

end Hits

/-! ## The decoder picks the first row that hits (30_encoding R82, R88) -/

/-- The priority of an operation's row within its group; the publisher has no `SEL` row. -/
def rowPriority : Instr → Nat
  | .sbArm _ | .rsCapture _ _ | .rdTent _ | .reDone _ _ => 1
  | .rsAbort _ _ | .reBacktrack _ _ => 3
  | .publish | .publishIdle => 0
  | _ => 2

theorem priority_eq_rowPriority {r : SelRow} (hr : r ∈ selRows) {i : Instr} (h : r.mnemonic = mnemonicOf i) :
    r.priority = rowPriority i := by
  revert r
  cases i <;> dsimp only [mnemonicOf, rowPriority] <;> decide

@[simp] theorem rowPriority_startMatchRow (mi : MarkerIndex) : rowPriority (startMatchRow mi) = 2 := by
  unfold startMatchRow
  split <;> rfl

@[simp] theorem rowPriority_endMatchRow (mi : MarkerIndex) : rowPriority (endMatchRow mi) = 2 := by
  unfold endMatchRow
  split <;> rfl

/-- No row that hits comes before the decoded operation's row: each smaller priority asks for what a test of the decoder
has ruled out. -/
theorem rowPriority_decode_le_of_hits {q : SelRow} {w : SelectorWord} (hq : q ∈ selRows)
    (h : selRowHits q w = true) : rowPriority (decode (.sel w)) ≤ q.priority := by
  have hone := one_le_priority hq
  have hgroup := group_eq_of_hits hq h
  have hopen := selByte_eq_markerOpen_of_hits hq h
  have hsix := six_le_selMi_of_hits hq h
  have hstart := matchesStart_of_hits hq h
  have hend := matchesEnd_of_hits hq h
  obtain ⟨d, mi, b, rfl⟩ := exists_eq_selectorWord w
  simp only [selState_selectorWord, selMi_selectorWord, selByte_selectorWord] at hgroup hopen hsix hstart hend
  rw [decode_sel_selectorWord]
  cases d with
  | standby =>
    change rowPriority (decodeStandby mi b) ≤ q.priority
    unfold decodeStandby
    split_ifs with hb
    · exact hone
    · exact hone.lt_of_ne' fun h1 => hb (hopen (.inl hgroup) h1)
  | readingStart =>
    change rowPriority (decodeReadingStart mi b) ≤ q.priority
    unfold decodeReadingStart
    split_ifs with hmi hb
    · exact hone
    · rw [rowPriority_startMatchRow]
      exact hone.lt_of_ne' fun h1 => hmi (hsix (.inl hgroup) h1)
    · have htwo : 2 ≤ q.priority := hone.lt_of_ne' fun h1 => hmi (hsix (.inl hgroup) h1)
      exact htwo.lt_of_ne' fun h2 => hb (hstart hgroup h2)
  | readingData =>
    change rowPriority (decodeReadingData mi b) ≤ q.priority
    unfold decodeReadingData
    split_ifs with hb
    · exact hone
    · exact hone.lt_of_ne' fun h1 => hb (hopen (.inr hgroup) h1)
  | readingEnd =>
    change rowPriority (decodeReadingEnd mi b) ≤ q.priority
    unfold decodeReadingEnd
    split_ifs with hmi hb
    · exact hone
    · rw [rowPriority_endMatchRow]
      exact hone.lt_of_ne' fun h1 => hmi (hsix (.inr hgroup) h1)
    · have htwo : 2 ≤ q.priority := hone.lt_of_ne' fun h1 => hmi (hsix (.inr hgroup) h1)
      exact htwo.lt_of_ne' fun h2 => hb (hend hgroup h2)

/-- The words of all operations are in their rows. -/
theorem rowPattern (i : Instr) : Laws.RowPattern.Statement i := by
  cases i with
  | sbArm mi => exact Laws.RowPattern.sbArm mi
  | sbSkip mi b => exact Laws.RowPattern.sbSkip mi b
  | rsCapture mi b => exact Laws.RowPattern.rsCapture mi b
  | rsMatch0 => exact Laws.RowPattern.rsMatch0
  | rsMatch1 => exact Laws.RowPattern.rsMatch1
  | rsMatch2 => exact Laws.RowPattern.rsMatch2
  | rsMatch3 => exact Laws.RowPattern.rsMatch3
  | rsMatch4 => exact Laws.RowPattern.rsMatch4
  | rsMatch5 => exact Laws.RowPattern.rsMatch5
  | rsAbort mi b => exact Laws.RowPattern.rsAbort mi b
  | rdTent mi => exact Laws.RowPattern.rdTent mi
  | rdAppend mi b => exact Laws.RowPattern.rdAppend mi b
  | reDone mi b => exact Laws.RowPattern.reDone mi b
  | reMatch0 => exact Laws.RowPattern.reMatch0
  | reMatch1 => exact Laws.RowPattern.reMatch1
  | reMatch2 => exact Laws.RowPattern.reMatch2
  | reMatch3 => exact Laws.RowPattern.reMatch3
  | reMatch4 => exact Laws.RowPattern.reMatch4
  | reMatch5 => exact Laws.RowPattern.reMatch5
  | reBacktrack mi b => exact Laws.RowPattern.reBacktrack mi b
  | publish => exact Laws.RowPattern.publish
  | publishIdle => exact Laws.RowPattern.publishIdle

/-- The decoded operation's row hits the word. -/
theorem exists_row_of_decode (w : SelectorWord) :
    ∃ r ∈ selRows, r.mnemonic = mnemonicOf (decode (.sel w)) ∧ selRowHits r w = true := by
  obtain ⟨hwf, hencode⟩ := isWordOf_decode_sel w
  have hrow := rowPattern _ hwf
  rwa [hencode] at hrow

theorem hits_of_applies {r : SelRow} {w : SelectorWord} (h : selRowApplies r w = true) : selRowHits r w = true :=
  (Bool.and_eq_true _ _ ▸ h).1

/-- No row that hits comes before one that applies. -/
theorem priority_le_of_applies {r q : SelRow} {w : SelectorWord} (hr : r ∈ selRows) (hq : q ∈ selRows)
    (h : selRowApplies r w = true) (hqw : selRowHits q w = true) : r.priority ≤ q.priority := by
  have hgroup : q.group = r.group :=
    (group_eq_of_hits hq hqw).trans (group_eq_of_hits hr (hits_of_applies h)).symm
  rw [selRowApplies, Bool.and_eq_true, List.all_eq_true] at h
  obtain ⟨-, hfirst⟩ := h
  simpa [hgroup, hqw] using hfirst q hq

/-- Settles O3: the decoded operation's row hits, no row that hits comes before it, and rows of one priority exclude
each other. -/
theorem decoderPicksTheFirstRow : Obligations.DecoderPicksTheFirstRow := by
  intro w
  constructor
  · obtain ⟨r, hr, hname, hrw⟩ := exists_row_of_decode w
    refine ⟨r, hr, group_eq_of_hits hr hrw, hname, hrw, fun q hq _ hqw => ?_⟩
    have hle : r.priority ≤ q.priority := priority_eq_rowPriority hr hname ▸ rowPriority_decode_le_of_hits hq hqw
    rcases hle.lt_or_eq with hlt | heq
    · exact .inr hlt
    · exact .inl (eq_of_hits_of_priority_eq hr hq hrw hqw heq.symm)
  · intro r hr q hq hra hqa
    have hrw := hits_of_applies hra
    have hqw := hits_of_applies hqa
    exact eq_of_hits_of_priority_eq hq hr hqw hrw
      (Nat.le_antisymm (priority_le_of_applies hr hq hra hqw) (priority_le_of_applies hq hr hqa hrw))

end Sys2Proof

namespace Sys2Proof.Machine

/-! ## The word a step is selected by (30_encoding R81, R86) -/

/-- Settles O5. -/
theorem selectorWordFields : Obligations.SelectorWordFields := fun b s =>
  ⟨selState_selectorWord _ _ _, selMi_selectorWord _ _ _, selByte_selectorWord _ _ _,
    fun t hstate hmi => by rw [selectorOf, selectorOf, hstate, hmi]⟩

/-- Settles O6. -/
theorem publisherSelectedByReady : Obligations.PublisherSelectedByReady := decode_commandOf

/-! ## A placed word is what the next step runs (log 17) -/

/-- A 13-bit number given with more than one byte is a selector word. -/
theorem tableWord_sel (w : SelectorWord) : tableWord 16 w.toNat = .ok (.sel w) := by
  have hlt : w.toNat < 8192 := w.isLt
  simp [tableWord, hlt]

theorem withFetchWord_sel (s : State) (w : SelectorWord) : s.withFetchWord 16 w.toNat = placeWord (.sel w) s := by
  rw [State.withFetchWord, tableWord_sel]

/-- With the gate open a step feeds the head byte (42_control_loop R171). -/
theorem step_of_byte {b : Byte} {s : State} {rest : List EnvInput} (hready : s.ready = false)
    (henv : s.env = .byte b :: rest) :
    step s = exec (decode (.sel (selectorOf b s))) { s with env := rest } := by
  have hreset : resetPending s = false := by simp [resetPending, henv]
  have hpoll : pollInput s = { s with env := rest } := by simp [pollInput, hready, henv]
  rw [step, hreset, if_neg Bool.false_ne_true, fetchWord_of_byte hready henv, hpoll]

/-- The placed state's selector word is the word placed. -/
theorem selectorOf_placeWord (s : State) (w : SelectorWord) : selectorOf (selByte w) (placeWord (.sel w) s) = w := by
  change selectorWord (stateBits (stateOfBits (selState w))) (selMi w) (selByte w) = w
  rw [stateBits_stateOfBits, selectorWord_of_fields]

/-- Settles O25: a placed selector word is the one the loop forms again from the registers and the byte; the two command
words are formed from the flag. -/
theorem placedWordRuns : Obligations.PlacedWordRuns := by
  refine ⟨fun s w => ?_, fun _ => rfl, fun _ => rfl⟩
  rw [withFetchWord_sel, step_of_byte (b := selByte w) (rest := s.env) rfl rfl, selectorOf_placeWord]
  rfl

end Sys2Proof.Machine

/-! SUPPORT. The ten transitions one by one: the effect, the selection and the gated step (40_frame_decoder R112 to
R128), and that together they are the one function of R130. -/

namespace Sys2Proof.Machine

/-! ## The operation a byte selects, by the state (30_encoding R82, R83) -/

section Selection

variable {b : Byte} {s : State}

theorem decode_selectorOf_standby (h : s.state = .standby) :
    decode (.sel (selectorOf b s)) = decodeStandby s.mi b := by rw [decode_selectorOf, h]

theorem decode_selectorOf_readingStart (h : s.state = .readingStart) :
    decode (.sel (selectorOf b s)) = decodeReadingStart s.mi b := by rw [decode_selectorOf, h]

theorem decode_selectorOf_readingData (h : s.state = .readingData) :
    decode (.sel (selectorOf b s)) = decodeReadingData s.mi b := by rw [decode_selectorOf, h]

theorem decode_selectorOf_readingEnd (h : s.state = .readingEnd) :
    decode (.sel (selectorOf b s)) = decodeReadingEnd s.mi b := by rw [decode_selectorOf, h]

theorem matchesStart_eq_true_iff {mi : MarkerIndex} :
    matchesStart mi b = true ↔ startMarker[mi.toNat]? = some b := beq_iff_eq

theorem matchesEnd_eq_true_iff {mi : MarkerIndex} :
    matchesEnd mi b = true ↔ endMarker[mi.toNat]? = some b := beq_iff_eq

theorem decode_selectorOf_eq_rsCapture (hstate : s.state = .readingStart) (hmi : 6 ≤ s.mi.toNat) :
    decode (.sel (selectorOf b s)) = .rsCapture s.mi b := by
  rw [decode_selectorOf_readingStart hstate, decodeReadingStart_of_le hmi]

theorem decode_selectorOf_eq_rsAbort (hstate : s.state = .readingStart) (hmi : s.mi.toNat < 6)
    (hb : startMarker[s.mi.toNat]? ≠ some b) : decode (.sel (selectorOf b s)) = .rsAbort s.mi b := by
  rw [decode_selectorOf_readingStart hstate,
    decodeReadingStart_of_not_matches hmi (Bool.eq_false_iff.2 (matchesStart_eq_true_iff.not.2 hb))]

theorem decode_selectorOf_eq_rdAppend (hstate : s.state = .readingData) (hb : b ≠ 0x3C) :
    decode (.sel (selectorOf b s)) = .rdAppend s.mi b := by
  rw [decode_selectorOf_readingData hstate, decodeReadingData_of_ne hb]

theorem decode_selectorOf_eq_reDone (hstate : s.state = .readingEnd) (hmi : 6 ≤ s.mi.toNat) :
    decode (.sel (selectorOf b s)) = .reDone s.mi b := by
  rw [decode_selectorOf_readingEnd hstate, decodeReadingEnd_of_le hmi]

theorem decode_selectorOf_eq_reBacktrack (hstate : s.state = .readingEnd) (hmi : s.mi.toNat < 6)
    (hb : endMarker[s.mi.toNat]? ≠ some b) : decode (.sel (selectorOf b s)) = .reBacktrack s.mi b := by
  rw [decode_selectorOf_readingEnd hstate,
    decodeReadingEnd_of_not_matches hmi (Bool.eq_false_iff.2 (matchesEnd_eq_true_iff.not.2 hb))]

end Selection

/-! ## The step that feeds a byte, and the one that publishes (42_control_loop R170, R171) -/

section Steps

variable {b : Byte} {s : State} {rest : List EnvInput}

/-- With the gate open a step is the transition function on the head byte, which has left the stream. -/
theorem step_eq_feed (hready : s.ready = false) (henv : s.env = .byte b :: rest) :
    step s = feed b { s with env := rest } := step_of_byte hready henv

/-- A gated step runs the operation that the head byte selects. -/
theorem step_eq_exec {i : Instr} (hi : decode (.sel (selectorOf b s)) = i) (hready : s.ready = false)
    (henv : s.env = .byte b :: rest) : step s = exec i { s with env := rest } := by
  rw [step_of_byte hready henv, hi]

theorem step_eq_publish (hready : s.ready = true) (hreset : resetPending s = false) :
    step s = exec .publish s := by
  rw [step, hreset, if_neg Bool.false_ne_true, (decode_fetchWord_eq_publish_iff s).2 hready, pollInput, if_pos hready]

end Steps

/-! ## `Standby` (R112, R113) -/

/-- Settles O7. -/
theorem sbArmBeginsStartMatch : Obligations.SbArmBeginsStartMatch := by
  have hsel (s : State) (hstate : s.state = .standby) : decode (.sel (selectorOf 0x3C s)) = .sbArm s.mi :=
    decode_selectorOf_standby hstate
  exact ⟨fun _ _ => rfl, hsel, fun s _ hstate hready henv => step_eq_exec (hsel s hstate) hready henv⟩

/-- Settles O8. -/
theorem sbSkipDiscards : Obligations.SbSkipDiscards := by
  have hsel (s : State) (b : Byte) (hstate : s.state = .standby) (hb : b ≠ 0x3C) :
      decode (.sel (selectorOf b s)) = .sbSkip s.mi b := by
    rw [decode_selectorOf_standby hstate, decodeStandby_of_ne hb]
  exact ⟨fun _ _ _ => rfl, hsel, fun s b _ hstate hb hready henv => step_eq_exec (hsel s b hstate hb) hready henv⟩

/-! ## `ReadingStart` (R116 to R118) -/

/-- Settles O9. -/
theorem rsCaptureStoresFirstByte : Obligations.RsCaptureStoresFirstByte :=
  ⟨fun _ b s => ⟨_, rfl, rfl, rfl, rfl, rfl, rfl, rfl, read_write_self s.buf 0 b,
      fun _ ha => read_write_of_ne s.buf b ha⟩,
    fun _ _ => decode_selectorOf_eq_rsCapture,
    fun _ _ _ hstate hmi => step_eq_exec (decode_selectorOf_eq_rsCapture hstate hmi)⟩

/-- The twelve rows of `RS_MATCH` and `RE_MATCH`, at a row's own `mi`. -/
theorem exec_matchRow_at {i : Instr} (hi : isMatchRow i = true) {s : State} (m : MarkerIndex) (hmi : s.mi = m) :
    exec i s = .next { s with mi := m + 1 } := by
  rw [exec_of_isMatchRow hi, ← hmi]
  rfl

/-- The start marker has six bytes. -/
theorem lt_six_of_startMarker_getElem? {k : Nat} {b : Byte} (h : startMarker[k]? = some b) : k < 6 :=
  (List.getElem?_eq_some_iff.1 h).1

/-- A byte of the start marker at its place advances the match (R117). -/
theorem feed_startMatch {b : Byte} {s : State} (hstate : s.state = .readingStart)
    (hb : startMarker[s.mi.toNat]? = some b) : feed b s = .next { s with mi := s.mi + 1 } := by
  have hlt := lt_six_of_startMarker_getElem? hb
  rw [feed_readingStart hstate, if_neg (by omega), if_pos (matchesStart_eq_true_iff.2 hb)]
  rfl

/-- A byte of the end marker at its place, the last one excepted, advances the match (R127). -/
theorem feed_endMatch {b : Byte} {s : State} (hstate : s.state = .readingEnd) (hmi : s.mi.toNat < 6)
    (hb : endMarker[s.mi.toNat]? = some b) : feed b s = .next { s with mi := s.mi + 1 } := by
  rw [feed_readingEnd hstate, if_neg (by omega), if_pos (matchesEnd_eq_true_iff.2 hb)]
  rfl

/-- Settles O10. -/
theorem rsMatchAdvances : Obligations.RsMatchAdvances := by
  refine ⟨fun s => ⟨exec_matchRow_at rfl 0, exec_matchRow_at rfl 1, exec_matchRow_at rfl 2, exec_matchRow_at rfl 3,
    exec_matchRow_at rfl 4, exec_matchRow_at rfl 5⟩, fun s b hstate hb => ?_⟩
  have hlt := lt_six_of_startMarker_getElem? hb
  refine ⟨toNat_add_one_of_lt_six (by omega), hlt, feed_startMatch hstate hb, fun rest hready henv => ?_⟩
  rw [step_eq_feed hready henv]
  exact feed_startMatch hstate hb

/-- Settles O11. -/
theorem rsAbortReturnsToStandby : Obligations.RsAbortReturnsToStandby :=
  ⟨fun _ _ _ => rfl, fun _ _ => decode_selectorOf_eq_rsAbort,
    fun _ _ _ hstate hmi hb => step_eq_exec (decode_selectorOf_eq_rsAbort hstate hmi hb)⟩

/-! ## `ReadingData` (R122, R123) -/

/-- Settles O12. -/
theorem rdTentHoldsBack : Obligations.RdTentHoldsBack := by
  have hsel (s : State) (hstate : s.state = .readingData) : decode (.sel (selectorOf 0x3C s)) = .rdTent s.mi :=
    decode_selectorOf_readingData hstate
  exact ⟨fun _ _ => rfl, hsel, fun s _ hstate hready henv => step_eq_exec (hsel s hstate) hready henv⟩

/-- Settles O13. -/
theorem rdAppendWritesAndSaturates : Obligations.RdAppendWritesAndSaturates :=
  ⟨fun _ b s => ⟨append b s, rfl, rfl, rfl, rfl, rfl, rfl, nextWriteIndex_toNat s.wi, read_write_self s.buf s.wi b,
      fun _ ha => read_write_of_ne s.buf b ha⟩,
    fun _ _ => decode_selectorOf_eq_rdAppend,
    fun _ _ _ hstate hb => step_eq_exec (decode_selectorOf_eq_rdAppend hstate hb)⟩

/-! ## `ReadingEnd` (R126 to R128) -/

/-- Settles O14: the flag, once set, makes the next step a `PUBLISH`; by the table of 10_state R46 no other operation
sets it. -/
theorem reDoneCompletesFrame : Obligations.ReDoneCompletesFrame :=
  ⟨fun _ _ _ => rfl, fun _ _ => decode_selectorOf_eq_reDone,
    fun _ _ _ hstate hmi hready henv =>
      ⟨_, step_eq_exec (decode_selectorOf_eq_reDone hstate hmi) hready henv, rfl, step_eq_publish rfl⟩,
    fun _ _ _ => eq_reDone_of_exec_sets_ready⟩

/-- Settles O15. -/
theorem reMatchAdvances : Obligations.ReMatchAdvances := by
  refine ⟨fun s => ⟨exec_matchRow_at rfl 0, exec_matchRow_at rfl 1, exec_matchRow_at rfl 2, exec_matchRow_at rfl 3,
    exec_matchRow_at rfl 4, exec_matchRow_at rfl 5⟩, fun s b hstate hmi hb => ?_⟩
  refine ⟨toNat_add_one_of_lt_six (by omega), feed_endMatch hstate hmi hb, fun rest hready henv => ?_⟩
  rw [step_eq_feed hready henv]
  exact feed_endMatch hstate hmi hb

/-- The last append of a backtrack is one more of the sequence (R128). -/
theorem append_appendAll (b : Byte) (vs : List Byte) (s : State) :
    append b (appendAll vs s) = appendAll (vs ++ [b]) s := by
  rw [appendAll_append]
  rfl

/-- The two writings of the end marker agree (00_scope R8). -/
theorem endMarker_getElem?_eq_endByte {k : Nat} (h : k < 7) : endMarker[k]? = some (endByte k) := by
  revert k
  decide

/-- The bytes held back are the first `mi` of the end marker. -/
theorem heldBack_getElem? {mi : MarkerIndex} {k : Nat} (h : k < mi.toNat) : (heldBack mi)[k]? = some (endByte k) := by
  rw [heldBack, List.getElem?_take_of_lt h, endMarker_getElem?_eq_endByte (by omega)]

/-- Byte `k` of what a backtrack writes: the bytes held back, then the failing byte. -/
theorem heldBack_append_getElem? (mi : MarkerIndex) (b : Byte) (k : Nat) :
    (heldBack mi ++ [b])[k]? =
      if k < mi.toNat then some (endByte k) else if k = mi.toNat then some b else none := by
  rw [List.getElem?_append, heldBack_length]
  split_ifs with hlt heq
  · exact heldBack_getElem? hlt
  · simp [heq]
  · exact List.getElem?_eq_none (by rw [List.length_singleton]; omega)

/-- Cell `a` after a backtrack (R128 with R110): the replayed bytes and the failing one, cell by cell. -/
theorem backtrack_read (b : Byte) (s : State) (a : WriteIndex) :
    (append b (appendAll (heldBack s.mi) s)).buf.read a =
      if a.toNat < s.wi.toNat then s.buf.read a
      else if a.toNat = 63 ∧ 63 ≤ s.wi.toNat + s.mi.toNat then b
      else if a.toNat < s.wi.toNat + s.mi.toNat then endByte (a.toNat - s.wi.toNat)
      else if a.toNat = s.wi.toNat + s.mi.toNat then b
      else s.buf.read a := by
  have hreach : 64 ≤ s.wi.toNat + (heldBack s.mi ++ [b]).length ↔ 63 ≤ s.wi.toNat + s.mi.toNat := by
    rw [List.length_append, heldBack_length, List.length_singleton]
    omega
  rw [append_appendAll, appendAll_read, List.getLast?_concat, Option.getD_some, heldBack_append_getElem?]
  simp only [hreach]
  by_cases hbelow : a.toNat < s.wi.toNat
  · rw [if_pos hbelow, if_pos hbelow]
  · have hreplayed : a.toNat - s.wi.toNat < s.mi.toNat ↔ a.toNat < s.wi.toNat + s.mi.toNat := by omega
    have hfailing : a.toNat - s.wi.toNat = s.mi.toNat ↔ a.toNat = s.wi.toNat + s.mi.toNat := by omega
    simp only [hbelow, hreplayed, hfailing, if_false]
    split_ifs <;> rfl

/-- Settles O16: a backtrack is one sequence of appends, the bytes held back and then the failing one. -/
theorem reBacktrackReplays : Obligations.ReBacktrackReplays := by
  refine ⟨fun _ b s => ⟨_, rfl, rfl, ?_, ?_, ?_, ?_, ?_, fun a => ?_⟩, fun _ _ => decode_selectorOf_eq_reBacktrack,
    fun _ _ _ hstate hmi hb => step_eq_exec (decode_selectorOf_eq_reBacktrack hstate hmi hb)⟩
  · simp
  · simp
  · simp
  · simp
  · rw [setState_wi, append_appendAll, appendAll_wi, List.length_append, heldBack_length, List.length_singleton,
      Nat.add_assoc]
  · exact backtrack_read b s a

/-! ## The one function of R130, and register values that cannot occur (R136) -/

/-- The two writings of the start marker agree (00_scope R8). -/
theorem startMarker_getElem?_eq_startByte {k : Nat} (h : k < 6) : startMarker[k]? = some (startByte k) := by
  revert k
  decide

theorem matchesStart_iff_eq_startByte {mi : MarkerIndex} (h : mi.toNat < 6) {b : Byte} :
    matchesStart mi b = true ↔ b = startByte mi.toNat := by
  rw [matchesStart_eq_true_iff, startMarker_getElem?_eq_startByte h, Option.some_inj, eq_comm]

theorem matchesEnd_iff_eq_endByte {mi : MarkerIndex} (h : mi.toNat < 7) {b : Byte} :
    matchesEnd mi b = true ↔ b = endByte mi.toNat := by
  rw [matchesEnd_eq_true_iff, endMarker_getElem?_eq_endByte h, Option.some_inj, eq_comm]

theorem appendAsWritten_eq_append (v : Byte) (s : State) : appendAsWritten v s = append v s := by
  have hnext : nextWriteIndex s.wi = if s.wi.toNat < 63 then s.wi + 1 else s.wi := rfl
  rw [appendAsWritten, append, hnext]
  split <;> rfl

/-- The loop of R130 appends the first `n` bytes of the end marker. -/
theorem replayAsWritten_eq_appendAll {n : Nat} (h : n ≤ 7) (s : State) :
    replayAsWritten n s = appendAll (endMarker.take n) s := by
  induction n with
  | zero => rfl
  | succ n ih =>
    rw [replayAsWritten, appendAsWritten_eq_append, ih (by omega), append_appendAll, List.take_add_one,
      endMarker_getElem?_eq_endByte (by omega)]
    rfl

/-- Settles O17, state by state: the two writings differ in how they name the marker bytes and the appends. -/
theorem feedIsTheOneFunction : Obligations.FeedIsTheOneFunction := by
  rintro b ⟨st, mi, wi, ready, buf, trace, env⟩
  cases st with
  | standby => exact feed_standby rfl
  | readingStart =>
    rw [feed_readingStart rfl]
    by_cases h6 : 6 ≤ mi.toNat
    · simp only [feedAsOneFunction, if_pos h6]
      rfl
    · simp only [feedAsOneFunction, if_neg h6, matchesStart_iff_eq_startByte (Nat.not_le.1 h6)]
      rfl
  | readingData =>
    rw [feed_readingData rfl, ← appendAsWritten_eq_append]
    rfl
  | readingEnd =>
    rw [feed_readingEnd rfl]
    by_cases h6 : 6 ≤ mi.toNat
    · simp only [feedAsOneFunction, if_pos h6]
      rfl
    · simp only [feedAsOneFunction, if_neg h6, matchesEnd_iff_eq_endByte (mi := mi) (by omega), heldBack,
        ← replayAsWritten_eq_appendAll (n := mi.toNat) (by omega), ← appendAsWritten_eq_append]
      rfl

/-- Settles O18, each case a row of its group's transition. -/
theorem unreachableRegisterValues : Obligations.UnreachableRegisterValues := by
  intro b s
  refine ⟨fun hstate hmi => ?_, fun hstate hmi hb => ?_, fun hstate hmi => ?_, fun hstate hmi => ?_,
    fun hstate hmi hb => ?_, fun hstate hmi => ?_, fun hstate hwi hb => ?_⟩
  · rw [feed_startMatch hstate (by rw [hmi]; rfl), hmi]
    rfl
  · have hne : startMarker[s.mi.toNat]? ≠ some b := by
      rw [hmi]
      exact fun h => hb (Option.some_inj.1 h).symm
    rw [feed, decode_selectorOf_eq_rsAbort hstate (by simp [hmi]) hne]
    rfl
  · rw [feed, decode_selectorOf_eq_rsCapture hstate (by simp [hmi]), hmi]
  · rw [feed_endMatch hstate (by simp [hmi]) (by rw [hmi]; rfl), hmi]
    rfl
  · have hne : endMarker[s.mi.toNat]? ≠ some b := by
      rw [hmi]
      exact fun h => hb (Option.some_inj.1 h).symm
    rw [feed, decode_selectorOf_eq_reBacktrack hstate (by simp [hmi]) hne, exec, execReBacktrack, hmi]
    rfl
  · rw [feed, decode_selectorOf_eq_reDone hstate (by simp [hmi]), hmi]
  · rw [feed, decode_selectorOf_eq_rdAppend hstate hb, exec, execRdAppend, append, storeCell, hwi]
    rfl

end Sys2Proof.Machine

/-! SUPPORT. Frames on the wire: which payloads set the flag on the frame's last byte, what the buffer then holds, and
what the display shows (40_frame_decoder R134, R135). -/

namespace Sys2Proof.Machine

/-! ## The matcher over a sequence of bytes (R135) -/

theorem endScan_append (q : Nat) (bs cs : List Byte) :
    endScan q (bs ++ cs) = (endScan q bs).bind fun q' => endScan q' cs := by
  induction bs generalizing q with
  | nil => rfl
  | cons b bs ih =>
    simp only [List.cons_append, endScan]
    split_ifs
    · exact ih _
    · exact ih _
    · rfl
    · exact ih _
    · exact ih _

theorem endScan_cons (q : Nat) (b : Byte) (bs : List Byte) :
    endScan q (b :: bs) = (endScan q [b]).bind fun q' => endScan q' bs := endScan_append q [b] bs

/-- The moves of the matcher that do not complete the frame: hold back a `'<'`, take a payload byte, match, backtrack. -/
theorem endScan_singleton_cases {q q' : Nat} {b : Byte} (h : endScan q [b] = some q') :
    (q = 0 ∧ b = 0x3C ∧ q' = 1) ∨ (q = 0 ∧ b ≠ 0x3C ∧ q' = 0) ∨
    (q ≠ 0 ∧ q < 6 ∧ endMarker[q]? = some b ∧ q' = q + 1) ∨
    (q ≠ 0 ∧ q < 6 ∧ endMarker[q]? ≠ some b ∧ q' = 0) := by
  simp only [endScan] at h
  split_ifs at h with h0 hb h6 hm <;> cases h
  · exact .inl ⟨h0, hb, rfl⟩
  · exact .inr (.inl ⟨h0, hb, rfl⟩)
  · exact .inr (.inr (.inl ⟨h0, Nat.not_le.1 h6, hm, rfl⟩))
  · exact .inr (.inr (.inr ⟨h0, Nat.not_le.1 h6, hm, rfl⟩))

theorem endScan_singleton_eq_none_iff {q : Nat} {b : Byte} : endScan q [b] = none ↔ 6 ≤ q := by
  simp only [endScan]
  split_ifs <;> simp <;> omega

theorem endScan_le_six {q q' : Nat} {bs : List Byte} (hq : q ≤ 6) (h : endScan q bs = some q') : q' ≤ 6 := by
  induction bs generalizing q with
  | nil =>
    cases h
    exact hq
  | cons b bs ih =>
    rw [endScan_cons, Option.bind_eq_some_iff] at h
    obtain ⟨q₁, hb, hbs⟩ := h
    refine ih ?_ hbs
    rcases endScan_singleton_cases hb with ⟨-, -, rfl⟩ | ⟨-, -, rfl⟩ | ⟨-, hlt, -, rfl⟩ | ⟨-, -, -, rfl⟩
    · omega
    · omega
    · exact hlt
    · omega

/-- A matcher that completes the frame does so on some byte, met at position 6. -/
theorem exists_split_of_endScan_eq_none {q : Nat} {bs : List Byte} (h : endScan q bs = none) :
    ∃ pre b post q', bs = pre ++ b :: post ∧ endScan q pre = some q' ∧ 6 ≤ q' := by
  induction bs generalizing q with
  | nil => cases h
  | cons b bs ih =>
    rw [endScan_cons, Option.bind_eq_none_iff] at h
    cases hb : endScan q [b] with
    | none => exact ⟨[], b, bs, q, rfl, rfl, endScan_singleton_eq_none_iff.1 hb⟩
    | some q₁ =>
      obtain ⟨pre, c, post, q', rfl, hpre, h6⟩ := ih (h q₁ hb)
      refine ⟨b :: pre, c, post, q', rfl, ?_, h6⟩
      rw [endScan_cons, hb]
      exact hpre

/-- The first six bytes of the end marker are matched from `ReadingData` and from nowhere inside a tentative match. -/
theorem endScan_take_endMarker_iff {q : Nat} (hq : q ≤ 6) : endScan q (endMarker.take 6) = some 6 ↔ q = 0 := by
  revert q
  decide

/-- Conditions (i) and (ii) of R135 say that the end marker behind the payload is matched up to its last byte. -/
theorem endScan_payload_iff (ps : List Byte) :
    endScan 0 (ps ++ endMarker.take 6) = some 6 ↔ endScan 0 ps = some 0 := by
  rw [endScan_append]
  cases hps : endScan 0 ps with
  | none => simp
  | some q => simpa using endScan_take_endMarker_iff (endScan_le_six (by omega) hps)

/-! ## Runs with the flag clear before their last state -/

/-- `n` steps from `s` to `t`, with the flag clear in every state before `t`: no frame waits on the way. -/
def QuietRun (n : Nat) (s t : State) : Prop :=
  run n s = .next t ∧ ∀ k, k < n → ∃ u, run k s = .next u ∧ u.ready = false

theorem quietRun_zero (s : State) : QuietRun 0 s s := ⟨rfl, fun _ hk => absurd hk (Nat.not_lt_zero _)⟩

theorem quietRun_one {s t : State} (hready : s.ready = false) (h : step s = .next t) : QuietRun 1 s t := by
  refine ⟨run_succ h, fun k hk => ⟨s, ?_, hready⟩⟩
  rw [Nat.lt_one_iff.1 hk, run_zero]

theorem QuietRun.trans {m n : Nat} {s t u : State} (h : QuietRun m s t) (h' : QuietRun n t u) :
    QuietRun (m + n) s u := by
  obtain ⟨hrun, hquiet⟩ := h
  obtain ⟨hrun', hquiet'⟩ := h'
  refine ⟨(run_add hrun).trans hrun', fun k hk => ?_⟩
  by_cases hkm : k < m
  · exact hquiet k hkm
  · obtain ⟨v, hv, hready⟩ := hquiet' (k - m) (by omega)
    refine ⟨v, ?_, hready⟩
    rw [← hv, ← run_add hrun, Nat.add_sub_cancel' (Nat.not_lt.1 hkm)]

/-! ## Inside a payload -/

theorem asInputs_cons_append (b : Byte) (bs : List Byte) (rest : List EnvInput) :
    asInputs (b :: bs) ++ rest = .byte b :: (asInputs bs ++ rest) := rfl

theorem asInputs_append (bs cs : List Byte) : asInputs (bs ++ cs) = asInputs bs ++ asInputs cs :=
  List.map_append

/-- What appends write depends on the buffer and the Write Index alone (40_frame_decoder R110). -/
theorem appendAll_congr (vs : List Byte) {s t : State} (hbuf : s.buf = t.buf) (hwi : s.wi = t.wi) :
    (appendAll vs s).buf = (appendAll vs t).buf ∧ (appendAll vs s).wi = (appendAll vs t).wi := by
  induction vs generalizing s t with
  | nil => exact ⟨hbuf, hwi⟩
  | cons v vs ih =>
    refine ih ?_ ?_
    · rw [append_buf, append_buf, hbuf, hwi]
    · rw [append_wi, append_wi, hwi]

/-- The decoder has taken the payload bytes `bs` of a frame whose cells are filled from `s₀` on, the flag is clear, and
position `q` of the end marker is reached: `bs` is what has been written and then what is held back. -/
structure PayloadTaken (s₀ : State) (bs : List Byte) (q : Nat) (s : State) : Prop where
  ready : s.ready = false
  trace : s.trace = s₀.trace
  inData : q = 0 → s.state = .readingData
  inEnd : q ≠ 0 → s.state = .readingEnd ∧ s.mi.toNat = q
  written : ∃ ws, bs = ws ++ endMarker.take q ∧ s.buf = (appendAll ws s₀).buf ∧ s.wi = (appendAll ws s₀).wi

section Payload

variable {s₀ s : State} {bs : List Byte} {q q' : Nat} {b : Byte} {rest : List EnvInput}

/-- The pending inputs do not take part. -/
theorem PayloadTaken.withEnv (h : PayloadTaken s₀ bs q s) (env : List EnvInput) :
    PayloadTaken s₀ bs q { s with env := env } :=
  ⟨h.ready, h.trace, h.inData, h.inEnd, h.written⟩

/-- Back to `ReadingData` by appends: with what was held back and the byte, all bytes taken are written. -/
theorem PayloadTaken.appended (h : PayloadTaken s₀ bs q s) (b : Byte) :
    PayloadTaken s₀ (bs ++ [b]) 0 (setState .readingData (append b (appendAll (endMarker.take q) s))) := by
  obtain ⟨ws, hbs, hbuf, hwi⟩ := h.written
  have hmore := appendAll_congr (endMarker.take q ++ [b]) hbuf hwi
  rw [← appendAll_append, ← List.append_assoc, ← hbs] at hmore
  rw [append_appendAll]
  exact ⟨by simpa using h.ready, by simpa using h.trace, fun _ => rfl, fun h0 => absurd rfl h0, bs ++ [b], by simp,
    hmore⟩

/-- A payload byte fed inside a frame that it does not complete. -/
theorem PayloadTaken.feed_taken (h : PayloadTaken s₀ bs q s) (hscan : endScan q [b] = some q') :
    ∃ t, feed b s = .next t ∧ t.env = s.env ∧ PayloadTaken s₀ (bs ++ [b]) q' t := by
  have happended := h.appended b
  rcases endScan_singleton_cases hscan with ⟨rfl, rfl, rfl⟩ | ⟨rfl, hb, rfl⟩ | ⟨h0, h6, hm, rfl⟩ | ⟨h0, h6, hm, rfl⟩
  · obtain ⟨ws, hbs, hwritten⟩ := h.written
    refine ⟨setState .readingEnd (setMi 1 s), feed_readingData (h.inData rfl), rfl, h.ready, h.trace, by simp,
      fun _ => ⟨rfl, rfl⟩, ws, ?_, hwritten⟩
    rw [hbs, List.append_assoc]
    rfl
  · have hstate := h.inData rfl
    refine ⟨setState .readingData (append b s), ?_, rfl, happended⟩
    rw [feed_readingData hstate, if_neg (c := b = markerOpen) hb, ← hstate]
    rfl
  · obtain ⟨hstate, hmi⟩ := h.inEnd h0
    obtain ⟨ws, hbs, hwritten⟩ := h.written
    refine ⟨{ s with mi := s.mi + 1 }, feed_endMatch hstate (hmi ▸ h6) (hmi ▸ hm), rfl, h.ready, h.trace, by simp,
      fun _ => ⟨hstate, ?_⟩, ws, ?_, hwritten⟩
    · rw [← hmi]
      exact toNat_add_one_of_lt_six (by omega)
    · rw [hbs, List.append_assoc, List.take_add_one, hm]
      rfl
  · obtain ⟨hstate, hmi⟩ := h.inEnd h0
    rw [← hmi] at hm h6 happended
    refine ⟨_, ?_, ?_, happended⟩
    · rw [feed, decode_selectorOf_eq_reBacktrack hstate h6 hm]
      rfl
    · simp

/-- The gated step of such a byte. -/
theorem PayloadTaken.step_taken (h : PayloadTaken s₀ bs q s) (henv : s.env = .byte b :: rest)
    (hscan : endScan q [b] = some q') :
    ∃ t, step s = .next t ∧ t.env = rest ∧ PayloadTaken s₀ (bs ++ [b]) q' t := by
  rw [step_eq_feed h.ready henv]
  exact (h.withEnv rest).feed_taken hscan

/-- Bytes that do not complete the frame, fed one after the other. -/
theorem PayloadTaken.quietRun {cs : List Byte} (h : PayloadTaken s₀ bs q s) (henv : s.env = asInputs cs ++ rest)
    (hscan : endScan q cs = some q') :
    ∃ t, QuietRun cs.length s t ∧ t.env = rest ∧ PayloadTaken s₀ (bs ++ cs) q' t := by
  induction cs generalizing s bs q with
  | nil =>
    cases hscan
    exact ⟨s, quietRun_zero s, henv, by simpa using h⟩
  | cons c cs ih =>
    rw [endScan_cons, Option.bind_eq_some_iff] at hscan
    obtain ⟨q₁, hc, hcs⟩ := hscan
    rw [asInputs_cons_append] at henv
    obtain ⟨t, hstep, htenv, ht⟩ := h.step_taken henv hc
    obtain ⟨u, hrun, huenv, hu⟩ := ih ht htenv hcs
    refine ⟨u, ?_, huenv, by simpa using hu⟩
    rw [List.length_cons, Nat.add_comm]
    exact (quietRun_one h.ready hstep).trans hrun

/-- At position 6 every byte completes the frame (R126). -/
theorem PayloadTaken.step_done (h : PayloadTaken s₀ bs q s) (henv : s.env = .byte b :: rest) (h6 : 6 ≤ q) :
    step s = .next { s with state := .standby, wi := 0, ready := true, env := rest } := by
  obtain ⟨hstate, hmi⟩ := h.inEnd (by omega)
  exact step_eq_exec (decode_selectorOf_eq_reDone hstate (hmi ▸ h6)) h.ready henv

end Payload

/-! ## The start marker and the first payload byte -/

/-- The rest of a start marker, from any place of a match. -/
theorem quietRun_startMatch {n : Nat} {s : State} {rest : List EnvInput} (hstate : s.state = .readingStart)
    (hready : s.ready = false) (hmi : s.mi.toNat + n = 6)
    (henv : s.env = asInputs (startMarker.drop s.mi.toNat) ++ rest) :
    QuietRun n s { s with mi := 6, env := rest } := by
  induction n generalizing s with
  | zero =>
    have hmi6 : s.mi = 6 := BitVec.eq_of_toNat_eq hmi
    have hrest : s.env = rest := by rw [henv, hmi6]; rfl
    rw [← hmi6, ← hrest]
    exact quietRun_zero s
  | succ n ih =>
    have hlt : s.mi.toNat < startMarker.length := show s.mi.toNat < 6 by omega
    obtain ⟨hnext, -, -, hstep⟩ := rsMatchAdvances.2 s _ hstate (List.getElem?_eq_getElem hlt)
    rw [List.drop_eq_getElem_cons hlt, asInputs_cons_append] at henv
    have hrun := ih (s := { s with mi := s.mi + 1, env := asInputs (startMarker.drop (s.mi.toNat + 1)) ++ rest })
      hstate hready (show (s.mi + 1).toNat + n = 6 by omega) (by rw [hnext])
    rw [Nat.add_comm]
    exact (quietRun_one hready (hstep _ hready henv)).trans hrun

/-- From `Standby` with the flag clear, the start marker and one byte open a frame whose cells are filled from cell 0. -/
theorem quietRun_frameStart {s : State} {p : Byte} {rest : List EnvInput} (hstate : s.state = .standby)
    (hready : s.ready = false) (henv : s.env = asInputs startMarker ++ .byte p :: rest) :
    ∃ t, QuietRun 7 s t ∧ t.env = rest ∧ PayloadTaken (setWi 0 s) [p] 0 t := by
  have hopen := quietRun_one hready (sbArmBeginsStartMatch.2.2 s _ hstate hready henv)
  have hmatch := quietRun_startMatch (n := 5) (rest := .byte p :: rest)
    (s := { s with mi := 1, state := .readingStart, env := asInputs (startMarker.drop 1) ++ .byte p :: rest })
    rfl hready rfl rfl
  have hcapture := quietRun_one
    (s := { s with mi := 6, state := .readingStart, env := .byte p :: rest }) hready
    (step_eq_exec (decode_selectorOf_eq_rsCapture rfl (show 6 ≤ (6 : MarkerIndex).toNat by decide)) hready rfl)
  exact ⟨_, (hopen.trans hmatch).trans hcapture, rfl, hready, rfl, fun _ => rfl, fun h0 => absurd rfl h0, [p], rfl, rfl,
    rfl⟩

/-! ## Whole frames (R134, R135) -/

/-- A frame on the wire, cut where the run is: behind the first payload byte and before the last byte of the end
marker. -/
theorem asInputs_frameBytes (p : Byte) (ps : List Byte) (rest : List EnvInput) :
    asInputs (frameBytes (p :: ps)) ++ rest =
      asInputs startMarker ++ .byte p :: (asInputs (ps ++ endMarker.take 6) ++ .byte 0x3E :: rest) := by
  simp [frameBytes, asInputs, startMarker, endMarker]

/-- The bytes of a frame, counted by the same cut. -/
theorem frame_length (p : Byte) (ps : List Byte) :
    13 + (p :: ps).length = 7 + (ps ++ endMarker.take 6).length + 1 := by
  simp [endMarker]
  omega

/-- Appends from cell 0 fill the cells with the payload (R134 (a), (b)). -/
theorem appendAll_read_of_wi_eq_zero {s : State} (h : s.wi = 0) (vs : List Byte) (a : WriteIndex) :
    (appendAll vs s).buf.read a = payloadCell vs a (s.buf.read a) := by
  simp [appendAll_read, payloadCell, h]

section Frames

variable {s : State} {p : Byte} {ps : List Byte} {rest : List EnvInput}

/-- A frame that meets (i) and (ii) of R135: the flag is clear until its last byte. -/
theorem quietRun_frame (hstate : s.state = .standby) (hready : s.ready = false)
    (henv : s.env = asInputs (frameBytes (p :: ps)) ++ rest) (hscan : endScan 0 ps = some 0) :
    ∃ t, QuietRun (13 + (p :: ps).length) s t ∧ t.state = .standby ∧ t.mi = 6 ∧ t.wi = 0 ∧ t.ready = true ∧
      t.trace = s.trace ∧ t.env = rest ∧ ∀ a, t.buf.read a = payloadCell (p :: ps) a (s.buf.read a) := by
  rw [asInputs_frameBytes] at henv
  obtain ⟨t, hstart, htenv, ht⟩ := quietRun_frameStart hstate hready henv
  obtain ⟨u, hrun, huenv, hu⟩ := ht.quietRun htenv ((endScan_payload_iff ps).2 hscan)
  have hdone := quietRun_one hu.ready (hu.step_done huenv le_rfl)
  obtain ⟨-, hmi⟩ := hu.inEnd (by omega)
  obtain ⟨ws, hws, hbuf, -⟩ := hu.written
  have hpayload : p :: ps = ws := List.append_cancel_right hws
  refine ⟨{ u with state := .standby, wi := 0, ready := true, env := rest }, ?_, rfl, BitVec.eq_of_toNat_eq hmi, rfl,
    rfl, hu.trace, rfl, fun a => ?_⟩
  · rw [frame_length]
    exact (hstart.trans hrun).trans hdone
  · change u.buf.read a = _
    rw [hbuf, ← hpayload]
    exact appendAll_read_of_wi_eq_zero (s := setWi 0 s) rfl _ a

/-- A frame whose payload breaks (i) or (ii) has set the flag before its last byte, or leaves it clear on that byte. -/
theorem endScan_of_quietRun (hstate : s.state = .standby) (hready : s.ready = false)
    (henv : s.env = asInputs (frameBytes (p :: ps)) ++ rest) {t : State}
    (hquiet : QuietRun (13 + (p :: ps).length) s t) (hset : t.ready = true) : endScan 0 ps = some 0 := by
  rw [frame_length] at hquiet
  rw [asInputs_frameBytes] at henv
  obtain ⟨t₁, hstart, henv₁, ht₁⟩ := quietRun_frameStart hstate hready henv
  rw [← endScan_payload_iff]
  cases hscan : endScan 0 (ps ++ endMarker.take 6) with
  | none =>
    obtain ⟨pre, b, post, q, hcut, hpre, h6⟩ := exists_split_of_endScan_eq_none hscan
    rw [hcut, asInputs_append, List.append_assoc, asInputs_cons_append] at henv₁
    obtain ⟨t₂, hrun, henv₂, ht₂⟩ := ht₁.quietRun henv₁ hpre
    have hdone := (hstart.trans hrun).trans (quietRun_one ht₂.ready (ht₂.step_done henv₂ h6))
    obtain ⟨u, hu, hclear⟩ := hquiet.2 (7 + pre.length + 1) (by simp [hcut])
    rw [hdone.1] at hu
    cases hu
    cases hclear
  | some q =>
    obtain ⟨t₂, hrun, henv₂, ht₂⟩ := ht₁.quietRun henv₁ hscan
    cases hlast : endScan q [0x3E] with
    | none =>
      have h6 := endScan_singleton_eq_none_iff.1 hlast
      rw [Nat.le_antisymm (endScan_le_six (by omega) hscan) h6]
    | some q' =>
      obtain ⟨t₃, hstep, -, ht₃⟩ := ht₂.step_taken henv₂ hlast
      have hend := (hstart.trans hrun).trans (quietRun_one ht₂.ready hstep)
      have heq : t₃ = t := Host.Outcome.next.inj (hend.1.symm.trans hquiet.1)
      have hclear := ht₃.ready
      rw [heq, hset] at hclear
      cases hclear

end Frames

/-- Settles O45. -/
theorem frameFillsTheBuffer : Obligations.FrameFillsTheBuffer := by
  intro s p ps rest hstate hready henv hscan
  obtain ⟨t, ⟨hrun, -⟩, ht⟩ := quietRun_frame hstate hready henv hscan
  exact ⟨t, hrun, ht⟩

/-- Settles O46. -/
theorem frameCompletesOnItsLastByte : Obligations.FrameCompletesOnItsLastByte := by
  intro s p ps rest hstate hready henv
  constructor
  · rintro ⟨hquiet, t, hrun, hset⟩
    exact endScan_of_quietRun hstate hready henv ⟨hrun, hquiet⟩ hset
  · intro hscan
    obtain ⟨t, ⟨hrun, hquiet⟩, -, -, -, hset, -⟩ := quietRun_frame hstate hready henv hscan
    exact ⟨hquiet, t, hrun, hset⟩

/-- The event of a cell, its row and column by the bits of the address (41_buffer_publisher R150, R152). -/
theorem pixelEvent_eq (m : Memory) (a : WriteIndex) :
    pixelEvent m a = ⟨a.extractLsb' 3 3, a.extractLsb' 0 3, decide (127 ≤ (m.read a).toNat)⟩ := by
  have hbits : ∀ a : WriteIndex, rowOf a = a.extractLsb' 3 3 ∧ colOf a = a.extractLsb' 0 3 := by decide
  obtain ⟨hrow, hcol⟩ := hbits a
  rw [pixelEvent, hrow, hcol]
  rfl

/-- Event `a` behind those of an earlier trace is that of cell `a` (41_buffer_publisher R154). -/
theorem append_frameEvents_getElem? (es : List PixelEvent) (m : Memory) (a : WriteIndex) :
    (es ++ frameEvents m)[es.length + a.toNat]? = some (pixelEvent m a) := by
  rw [List.getElem?_append_right (Nat.le_add_right _ _), Nat.add_sub_cancel_left, frameEvents_getElem? m a.isLt,
    BitVec.ofNat_toNat, BitVec.setWidth_eq]

/-- Settles O47: without a `'<'` the matcher never moves, so the frame meets (i) and (ii); the step after it is a
`PUBLISH`. -/
theorem frameWithoutOpenerIsDisplayed : Obligations.FrameWithoutOpenerIsDisplayed := by
  intro s p ps rest hstate hready henv hopener
  obtain ⟨t, ⟨hrun, hquiet⟩, htstate, hmi, hwi, hset, htrace, htenv, hcells⟩ :=
    quietRun_frame hstate hready henv (endScan_zero_of_no_opener hopener)
  refine ⟨hquiet, t, hrun, htstate, hmi, hwi, hset, htrace, htenv, hcells, fun hreset =>
    ⟨setReady false (emit (frameEvents t.buf) t), step_eq_publish hset hreset, rfl, htenv, ?_, fun a => ?_⟩⟩
  · simp [htrace]
  · rw [setReady_trace, emit_trace, htrace, append_frameEvents_getElem?, pixelEvent_eq, hcells]

end Sys2Proof.Machine

/-! SUPPORT. The publisher: the threshold and the place of a cell, what `PUBLISH` and `PUBLISH_IDLE` do, and on what the
events of a frame depend (41_buffer_publisher R150 to R154). -/

namespace Sys2Proof.Machine

/-! ## The threshold, the row and the column (R152) -/

theorem pixelOn_eq_true_iff (v : Byte) : pixelOn v = true ↔ 127 ≤ v.toNat := decide_eq_true_iff

theorem pixelOn_eq_false_iff (v : Byte) : pixelOn v = false ↔ v.toNat ≤ 126 := by
  rw [Bool.eq_false_iff, ne_eq, pixelOn_eq_true_iff]
  omega

/-- 127 is the one value at or above the threshold whose top bit is clear (90_conflicts C5). -/
theorem pixelOn_eq_bits (v : Byte) : pixelOn v = (v.getLsbD 7 || (v.extractLsb' 0 7 == 0b1111111)) := by
  have hlt := v.isLt
  have htop : v.getLsbD 7 = true ↔ 128 ≤ v.toNat := by
    rw [← BitVec.msb_eq_getLsbD_last v, BitVec.msb_eq_decide, decide_eq_true_iff]
  have hlow : v.extractLsb' 0 7 = 0b1111111 ↔ v.toNat % 128 = 127 := by
    rw [← BitVec.toNat_inj, BitVec.extractLsb'_toNat, Nat.shiftRight_zero]
    rfl
  rw [Bool.eq_iff_iff, pixelOn_eq_true_iff, Bool.or_eq_true, beq_iff_eq, htop, hlow]
  omega

theorem rowOf_toNat (i : WriteIndex) : (rowOf i).toNat = i.toNat / 8 := by
  have hlt := i.isLt
  simp only [rowOf, Config.numCols, BitVec.toNat_ofNat]
  omega

theorem colOf_toNat (i : WriteIndex) : (colOf i).toNat = i.toNat % 8 := by
  simp only [colOf, Config.numCols, BitVec.toNat_ofNat]
  omega

theorem rowOf_eq_bits (i : WriteIndex) : rowOf i = i.extractLsb' 3 3 := by
  have hlt := i.isLt
  apply BitVec.eq_of_toNat_eq
  rw [rowOf_toNat, BitVec.extractLsb'_toNat, Nat.shiftRight_eq_div_pow]
  omega

theorem colOf_eq_bits (i : WriteIndex) : colOf i = i.extractLsb' 0 3 := by
  apply BitVec.eq_of_toNat_eq
  rw [colOf_toNat, BitVec.extractLsb'_toNat, Nat.shiftRight_zero]

/-- Settles O22. -/
theorem publisherArithmetic : Obligations.PublisherArithmetic :=
  ⟨fun v => ⟨pixelOn_eq_true_iff v, pixelOn_eq_false_iff v, pixelOn_eq_bits v⟩,
    fun i => ⟨rowOf_toNat i, colOf_toNat i, rowOf_eq_bits i, colOf_eq_bits i⟩⟩

/-! ## `PUBLISH` (R150, R154) -/

/-- A `PUBLISH` appends one frame to the display trace. -/
theorem trace_of_exec_publish {s t : State} (h : exec .publish s = .next t) :
    t.trace = s.trace ++ frameEvents s.buf := by
  cases h
  rfl

/-- Settles O20: the 64 events are those of the cells in order, and the registers of a waiting frame are those of the
invariants I1 to I7. -/
theorem publishRendersEveryCell : Obligations.PublishRendersEveryCell := by
  refine ⟨fun s => ⟨setReady false (emit (frameEvents s.buf) s), rfl, rfl, ?_, List.prefix_append _ _, fun k => ?_⟩,
    fun _ => step_eq_publish, fun s hs hready => ?_⟩
  · simp
  · rw [setReady_trace, emit_trace, append_frameEvents_getElem?, pixelEvent_eq]
  · obtain ⟨hstate, hwi, hmi⟩ := (reachInv_of_reachable hs).readyMeansDone hready
    exact ⟨hstate, hmi, hwi⟩

/-- Settles O23: a cell enters its event through the threshold alone. -/
theorem frameDependsOnThresholdOnly : Obligations.FrameDependsOnThresholdOnly := by
  intro s t s' t' hcells hs ht
  have hpixel (a : WriteIndex) : pixelOn (s.buf.read a) = pixelOn (t.buf.read a) := by
    rw [Bool.eq_iff_iff, pixelOn_eq_true_iff, pixelOn_eq_true_iff, hcells]
  rw [trace_of_exec_publish hs, trace_of_exec_publish ht, List.drop_left, List.drop_left, frameEvents_congr hpixel]

/-! ## `PUBLISH_IDLE` (R151) -/

/-- With the gate open, a step that meets neither a reset nor a byte takes the poll and changes nothing else
(42_control_loop R172, R175). -/
theorem step_of_no_byte {s : State} (hready : s.ready = false) (hreset : resetPending s = false)
    (hbyte : availableByte s = none) : step s = .next { s with env := s.env.tail } := by
  have hidle : decode (fetchWord s) = .publishIdle := by simp [fetchWord, decode_commandOf, hready, hbyte]
  have hpoll : pollInput s = { s with env := s.env.tail } := by simp [pollInput, hready]
  rw [step, hreset, if_neg Bool.false_ne_true, hidle, hpoll]
  rfl

theorem step_of_env_nil {s : State} (hready : s.ready = false) (henv : s.env = []) : step s = .next s := by
  rw [step_of_no_byte hready (by simp [resetPending, henv]) (by simp [availableByte, henv]), henv, List.tail_nil,
    ← henv]

theorem step_of_gap {s : State} {rest : List EnvInput} (hready : s.ready = false) (henv : s.env = .gap :: rest) :
    step s = .next { s with env := rest } := by
  rw [step_of_no_byte hready (by simp [resetPending, henv]) (by simp [availableByte, henv]), henv, List.tail_cons]

/-- As many steps as polls that find no byte take those polls and change nothing else. -/
theorem run_of_gaps {n : Nat} {s : State} {rest : List EnvInput} (hready : s.ready = false)
    (henv : s.env = List.replicate n .gap ++ rest) : run n s = .next { s with env := rest } := by
  induction n generalizing s with
  | zero =>
    rw [run_zero, ← henv.trans (List.nil_append rest)]
  | succ n ih =>
    rw [run_succ (step_of_gap hready henv)]
    exact ih hready rfl

/-- Settles O21. -/
theorem publishIdleDoesNothing : Obligations.PublishIdleDoesNothing :=
  ⟨fun _ => rfl, fun _ => step_of_env_nil, fun _ _ _ => run_of_gaps⟩

end Sys2Proof.Machine

/-! SUPPORT. The control loop: the operation a step runs, the gate, the handshake, and where a run comes to rest
(42_control_loop R170 to R184). -/

namespace Sys2Proof.Machine

/-! ## The operation of a step and the gate (R170 to R172) -/

/-- Settles O24. -/
theorem stepRunsTheDecodedOperation : Obligations.StepRunsTheDecodedOperation := fun s =>
  ⟨fun hreset => by rw [step, hreset, if_neg Bool.false_ne_true], step_eq_publish, fun _ _ => step_of_byte,
    fun _ => step_of_gap, step_of_env_nil⟩

/-- Settles O26. -/
theorem gateHoldsInputUntilPublish : Obligations.GateHoldsInputUntilPublish := by
  intro s t hready hreset h
  rw [step_eq_publish hready hreset] at h
  cases h
  exact ⟨rfl, rfl, rfl, rfl, rfl, fun _ => rfl, rfl⟩

/-! ## The handshake (R183, R184) -/

/-- No transition touches the pending inputs (10_state R46). -/
theorem env_of_feed {b : Byte} {s t : State} (h : feed b s = .next t) : t.env = s.env :=
  (operationFrames _ s t h).1

/-- No transition emits an event (10_state R46). -/
theorem trace_of_feed {b : Byte} {s t : State} (h : feed b s = .next t) : t.trace = s.trace := by
  obtain ⟨-, htrace, -⟩ := operationFrames _ s t h
  exact htrace (decode_selectorOf_ne_publish b s)

/-- Settles O32, by the four kinds of step. -/
theorem handshakeConsumesOneByte : Obligations.HandshakeConsumesOneByte := by
  intro s t h
  simp only [inValidSignal, inReadySignal, inDataSignal, rstSignal, frameReadySignal, pixelSignals, availableByte]
  rcases step_cases h with ⟨rest, henv, rfl⟩ | ⟨hready, hreset, rfl⟩ | ⟨hready, hnone | ⟨rest, hgap⟩, rfl⟩ |
    ⟨b, rest, hready, henv, hfeed⟩
  · simp [henv, resetPending, inputBytes]
  · simp [hready, hreset]
  · simp [hready, hnone, resetPending]
  · simp [hready, hgap, resetPending, inputBytes]
  · simp [hready, henv, resetPending, env_of_feed hfeed, trace_of_feed hfeed]

/-! ## A run comes to rest (R173) -/

theorem exists_exec_eq_next (i : Instr) (s : State) : ∃ t, exec i s = .next t := by
  cases i <;> exact ⟨_, rfl⟩

theorem exists_step_eq_next (s : State) : ∃ t, step s = .next t := by
  unfold step
  split
  · exact ⟨_, rfl⟩
  · exact exists_exec_eq_next _ _

/-- Two steps for each pending input, a byte and the `PUBLISH` it may bring about, and one for a waiting frame. -/
def restBound (s : State) : Nat := 2 * s.env.length + s.ready.toNat

/-- A step away from rest takes an input or publishes the waiting frame. -/
theorem restBound_lt_of_step {s t : State} (h : step s = .next t) (hrest : ¬ Quiescent s) :
    restBound t < restBound s := by
  unfold restBound
  rcases step_cases h with ⟨rest, henv, rfl⟩ | ⟨hready, -, rfl⟩ | ⟨hready, hnone | ⟨rest, hgap⟩, rfl⟩ |
    ⟨b, rest, hready, henv, hfeed⟩
  · simp [henv]
    omega
  · simp [hready]
  · exact absurd ⟨hnone, hready⟩ hrest
  · simp [hgap]
  · have hflag := Bool.toNat_le t.ready
    simp only [henv, env_of_feed hfeed, List.length_cons]
    omega

theorem exists_run_quiescent (s : State) : ∃ n t, n ≤ restBound s ∧ run n s = .next t ∧ Quiescent t := by
  by_cases hrest : Quiescent s
  · exact ⟨0, s, Nat.zero_le _, rfl, hrest⟩
  · obtain ⟨u, hstep⟩ := exists_step_eq_next s
    have hlt := restBound_lt_of_step hstep hrest
    obtain ⟨n, t, hn, hrun, ht⟩ := exists_run_quiescent u
    exact ⟨n + 1, t, by omega, (run_succ hstep).trans hrun, ht⟩
termination_by restBound s

theorem run_of_quiescent {t : State} (h : Quiescent t) (n : Nat) : run n t = .next t := by
  obtain ⟨henv, hready⟩ := h
  induction n with
  | zero => rfl
  | succ n ih => rw [run_succ (step_of_env_nil hready henv), ih]

/-- A run that comes to rest does so from each of its states, at the latest after as many steps again. -/
theorem run_rest_of_run {n k : Nat} {s t u : State} (hrun : run n s = .next t) (ht : Quiescent t)
    (hu : run k s = .next u) : run n u = .next t := by
  rw [← run_add hu, Nat.add_comm, run_add hrun, run_of_quiescent ht]

/-! ## Without a reset no event is lost (R173) -/

theorem resetPending_of_not_mem {s : State} (h : EnvInput.reset ∉ s.env) : resetPending s = false := by
  unfold resetPending
  split
  · rename_i henv
    exact absurd (henv ▸ List.mem_cons_self) h
  · rfl

/-- A step takes at most the head of the pending inputs and adds none. -/
theorem env_subset_of_step {s t : State} (h : step s = .next t) : t.env ⊆ s.env := by
  rcases step_cases h with ⟨rest, henv, rfl⟩ | ⟨-, -, rfl⟩ | ⟨-, -, rfl⟩ | ⟨b, rest, -, henv, hfeed⟩
  · exact henv ▸ List.subset_cons_self _ _
  · exact List.Subset.refl _
  · exact List.tail_subset _
  · rw [env_of_feed hfeed, henv]
    exact List.subset_cons_self _ _

/-- No reset is pending, and the display trace extends `es`. -/
def ExtendsTrace (es : List PixelEvent) (s : State) : Prop := EnvInput.reset ∉ s.env ∧ es <+: s.trace

theorem step_keeps_extendsTrace {es : List PixelEvent} (s t : State) (hs : ExtendsTrace es s)
    (h : step s = .next t) : ExtendsTrace es t := by
  obtain ⟨hreset, htrace⟩ := hs
  obtain ⟨-, -, -, hgrows, -⟩ := handshakeConsumesOneByte s t h
  refine ⟨fun hmem => hreset (env_subset_of_step h hmem), ?_⟩
  rw [hgrows (resetPending_of_not_mem hreset)]
  exact htrace.trans (List.prefix_append _ _)

theorem run_keeps_extendsTrace {es : List PixelEvent} {n : Nat} {s t : State} (hs : ExtendsTrace es s)
    (h : run n s = .next t) : ExtendsTrace es t :=
  run_keeps step_keeps_extendsTrace hs h

/-- Settles O43: every step away from rest lowers the bound; without a reset a state with the flag set is followed by
its `PUBLISH`, from which the run goes on to the same rest and only extends the trace. -/
theorem pendingInputIsDrained : Obligations.PendingInputIsDrained := by
  intro s
  obtain ⟨n, t, hn, hrun, ht⟩ := exists_run_quiescent s
  have hflag := Bool.toNat_le s.ready
  refine ⟨n, t, hn.trans (Nat.add_le_add_left hflag _), hrun, ht, fun hreset => ?_⟩
  have hs : ExtendsTrace s.trace s := ⟨hreset, List.prefix_refl _⟩
  refine ⟨(run_keeps_extendsTrace hs hrun).2, fun k u hu hready => ?_⟩
  have hnoReset := (run_keeps_extendsTrace hs hu).1
  have hpublish : run (k + 1) s = .next (setReady false (emit (frameEvents u.buf) u)) := by
    rw [run_add hu]
    exact run_succ (step_eq_publish hready (resetPending_of_not_mem hnoReset))
  have hshown : ExtendsTrace (u.trace ++ frameEvents u.buf) (setReady false (emit (frameEvents u.buf) u)) :=
    ⟨hnoReset, List.prefix_refl _⟩
  exact ⟨hpublish, (run_keeps_extendsTrace hshown (run_rest_of_run hrun ht hpublish)).2⟩

/-! ## The place of rest as a function of the pending bytes and resets (R174) -/

/-- The waiting frame published, if there is one (R172). -/
def publishWaiting (s : State) : State := if s.ready then setReady false (emit (frameEvents s.buf) s) else s

/-- Where the block comes to rest on the pending inputs `env`: before a byte is fed and at the end the waiting frame is
published; a poll that finds no byte counts for nothing, and a reset makes what came before it count for nothing. -/
def restingState : List EnvInput → State → State
  | [], s => { publishWaiting s with env := [] }
  | .byte b :: env, s => restingState env (feedAsOneFunction b (publishWaiting s))
  | .gap :: env, s => restingState env s
  | .reset :: env, _ => restingState env State.reset

section

variable (s : State) (env : List EnvInput)

/-- Appends neither read nor write the pending inputs. -/
theorem appendAll_withEnv (vs : List Byte) :
    appendAll vs { s with env := env } = { appendAll vs s with env := env } := by
  induction vs generalizing s with
  | nil => rfl
  | cons v vs ih => exact ih (append v s)

/-- No operation reads the pending inputs. -/
theorem exec_withEnv {i : Instr} {s t : State} (h : exec i s = .next t) :
    exec i { s with env := env } = .next { t with env := env } := by
  cases i with
  | reBacktrack mi b =>
    cases h
    simp only [exec, execReBacktrack, appendAll_withEnv]
    rfl
  | _ => cases h; rfl

theorem feedAsOneFunction_withEnv (b : Byte) :
    feedAsOneFunction b { s with env := env } = { feedAsOneFunction b s with env := env } :=
  Host.Outcome.next.inj ((feedIsTheOneFunction b _).symm.trans (exec_withEnv env (feedIsTheOneFunction b s)))

theorem publishWaiting_of_ready {s : State} (h : s.ready = true) :
    publishWaiting s = setReady false (emit (frameEvents s.buf) s) := if_pos h

theorem publishWaiting_of_not_ready {s : State} (h : s.ready = false) : publishWaiting s = s :=
  if_neg (Bool.eq_false_iff.1 h)

theorem publishWaiting_idem : publishWaiting (publishWaiting s) = publishWaiting s := by
  refine publishWaiting_of_not_ready ?_
  cases h : s.ready with
  | false => rw [publishWaiting_of_not_ready h, h]
  | true => rw [publishWaiting_of_ready h, setReady_ready]

theorem publishWaiting_withEnv : publishWaiting { s with env := env } = { publishWaiting s with env := env } := by
  unfold publishWaiting
  split <;> rfl

/-- The pending inputs that count are those given, not those of the state. -/
theorem restingState_withEnv (env' : List EnvInput) :
    restingState env { s with env := env' } = restingState env s := by
  induction env generalizing s with
  | nil => simp only [restingState, publishWaiting_withEnv]
  | cons e env ih =>
    cases e with
    | byte b => simp only [restingState, publishWaiting_withEnv, feedAsOneFunction_withEnv, ih]
    | gap => exact ih s
    | reset => rfl

/-- It does not matter when the waiting frame is published. -/
theorem restingState_publishWaiting : restingState env (publishWaiting s) = restingState env s := by
  induction env with
  | nil => simp only [restingState, publishWaiting_idem]
  | cons e env ih =>
    cases e with
    | byte b => simp only [restingState, publishWaiting_idem]
    | gap => exact ih
    | reset => rfl

theorem restingState_withoutGaps : restingState (withoutGaps env) s = restingState env s := by
  induction env generalizing s with
  | nil => rfl
  | cons e env ih =>
    cases e with
    | byte b => exact ih _
    | gap => exact ih s
    | reset => exact ih _

end

/-- A step does not change where the block comes to rest. -/
theorem restingState_of_step {s t : State} (h : step s = .next t) :
    restingState t.env t = restingState s.env s := by
  rcases step_cases h with ⟨rest, henv, rfl⟩ | ⟨hready, -, rfl⟩ | ⟨-, hnone | ⟨rest, hgap⟩, rfl⟩ |
    ⟨b, rest, hready, henv, hfeed⟩
  · rw [henv]
    exact restingState_withEnv State.reset rest rest
  · rw [setReady_env, emit_env, ← publishWaiting_of_ready hready, restingState_publishWaiting]
  · rw [restingState_withEnv, hnone, List.tail_nil]
  · rw [restingState_withEnv, hgap, List.tail_cons]
    rfl
  · have ht := Host.Outcome.next.inj (hfeed.symm.trans (feedIsTheOneFunction b _))
    rw [env_of_feed hfeed, ht, feedAsOneFunction_withEnv, restingState_withEnv, henv, restingState,
      publishWaiting_of_not_ready hready]

theorem restingState_of_run {n : Nat} {s t : State} (h : run n s = .next t) :
    restingState t.env t = restingState s.env s :=
  run_keeps (P := fun u => restingState u.env u = restingState s.env s)
    (fun _ _ hu hstep => (restingState_of_step hstep).trans hu) rfl h

theorem restingState_of_quiescent {t : State} (h : Quiescent t) : restingState t.env t = t := by
  obtain ⟨henv, hready⟩ := h
  rw [henv, restingState, publishWaiting_of_not_ready hready, ← henv]

/-- A run that comes to rest does so at the resting state of its pending inputs without the polls that find no byte. -/
theorem eq_restingState_of_run {s t : State} {env : List EnvInput} {n : Nat}
    (hrun : run n { s with env := env } = .next t) (ht : Quiescent t) : t = restingState (withoutGaps env) s := by
  rw [← restingState_of_quiescent ht, restingState_of_run hrun, restingState_withEnv, restingState_withoutGaps]

/-- Settles O42: where a run comes to rest is a function that the polls without a byte do not enter. -/
theorem scheduleDoesNotMatter : Obligations.ScheduleDoesNotMatter := by
  intro s env₁ env₂ henv n₁ n₂ t₁ t₂ hrun₁ hrun₂ ht₁ ht₂
  rw [eq_restingState_of_run hrun₁ ht₁, eq_restingState_of_run hrun₂ ht₂, henv]

end Sys2Proof.Machine

/-! SUPPORT. What ends a run and what ends an open frame: no fault stops the block (60_exceptions R200), and only
`RE_DONE` or a reset closes a frame (60_exceptions R207, 40_frame_decoder R134 (d)). -/

namespace Sys2Proof.Machine

/-! ## Nothing stops (R200) -/

theorem exists_run_eq_next (n : Nat) (s : State) : ∃ t, run n s = .next t := by
  induction n generalizing s with
  | zero => exact ⟨s, rfl⟩
  | succ n ih =>
    obtain ⟨u, hstep⟩ := exists_step_eq_next s
    rw [run_succ hstep]
    exact ih u

/-- Settles O31: each operation answers a next state, hence each transition, each step and, by induction, each run. -/
theorem nothingEverStops : Obligations.NothingEverStops :=
  ⟨nofun, exists_exec_eq_next, fun _ _ => exists_exec_eq_next _ _, exists_step_eq_next, exists_run_eq_next⟩

/-! ## What ends an open frame (R207) -/

theorem filling_eq_true_iff {d : DecoderState} : d.filling = true ↔ d = .readingData ∨ d = .readingEnd := by
  cases d <;> simp [DecoderState.filling]

/-- Of the transitions from an open frame only `RE_DONE` closes it; a backtrack goes back to `ReadingData`. -/
theorem reDone_of_feed_closes_frame {b : Byte} {s t : State} (h : feed b s = .next t)
    (hs : s.state.filling = true) (ht : t.state.filling = false) :
    s.state = .readingEnd ∧ 6 ≤ s.mi.toNat ∧ t = setReady true (setWi 0 (setState .standby s)) := by
  rcases filling_eq_true_iff.1 hs with hstate | hstate
  · rw [feed_readingData hstate] at h
    cases h
    split at ht
    · simp [DecoderState.filling] at ht
    · simp [hs] at ht
  · rw [feed_readingEnd hstate] at h
    cases h
    split_ifs at ht ⊢ with h6 hmatch
    · exact ⟨hstate, h6, rfl⟩
    · simp [hs] at ht
    · simp [DecoderState.filling] at ht

/-- Settles O39: of the four kinds of step a publisher step and a poll without a byte leave the Decoder State alone. -/
theorem openFrameEndsOnlyByDoneOrReset : Obligations.OpenFrameEndsOnlyByDoneOrReset := by
  intro s t hs h ht
  rcases step_cases h with ⟨rest, henv, rfl⟩ | ⟨-, -, rfl⟩ | ⟨-, -, rfl⟩ | ⟨b, rest, hready, -, hfeed⟩
  · exact .inl (by simp [resetPending, henv])
  · simp [hs] at ht
  · simp [hs] at ht
  · obtain ⟨hstate, hmi, rfl⟩ := reDone_of_feed_closes_frame (s := { s with env := rest }) hfeed hs ht
    exact .inr ⟨hstate, hmi, hready, rfl, rfl⟩

end Sys2Proof.Machine

/-! SUPPORT. Reset and hazards: what a reset overrides, the bare transition function with the flag set, stale registers,
and how many bytes the first frame takes (70_reset_and_hazards R230 to R245). -/

namespace Sys2Proof.Machine

/-! ## A reset overrides everything (R230) -/

/-- Settles O27. -/
theorem resetOverridesEverything : Obligations.ResetOverridesEverything := by
  intro s rest henv
  have hreset : resetPending s = true := by simp [resetPending, henv]
  rw [step, if_pos hreset, henv]
  rfl

/-! ## The bytes that the first frame takes (R232) -/

section Count

variable {s t : State}

theorem bytesToFrame_standby (h : s.state = .standby) : bytesToFrame s = 14 := by rw [bytesToFrame, h]

theorem bytesToFrame_readingStart (h : s.state = .readingStart) : bytesToFrame s = 14 - s.mi.toNat := by
  rw [bytesToFrame, h]

theorem bytesToFrame_readingData (h : s.state = .readingData) : bytesToFrame s = 7 := by rw [bytesToFrame, h]

theorem bytesToFrame_readingEnd (h : s.state = .readingEnd) : bytesToFrame s = 7 - s.mi.toNat := by
  rw [bytesToFrame, h]

theorem bytesToFrame_le (s : State) : bytesToFrame s ≤ 14 := by
  unfold bytesToFrame
  split <;> omega

/-- The number depends on the Decoder State and the Marker Index alone. -/
theorem bytesToFrame_withEnv (s : State) (env : List EnvInput) : bytesToFrame { s with env := env } = bytesToFrame s :=
  rfl

/-- A matched marker byte is one byte less to come; `mi` does not wrap (40_frame_decoder R117, R127). -/
theorem bytesToFrame_le_advanceMarker (hmi : ¬ 6 ≤ s.mi.toNat) :
    bytesToFrame s ≤ bytesToFrame (advanceMarker s) + 1 := by
  have hadvance := toNat_add_one_of_lt_six hmi
  simp only [bytesToFrame, advanceMarker_state, advanceMarker_mi, hadvance]
  cases s.state <;> dsimp only <;> omega

/-- A transition brings a frame nearer by one byte at most, and it touches the flag only where one byte was missing at
most (40_frame_decoder R138). -/
theorem bytesToFrame_of_feed {b : Byte} (h : feed b s = .next t) :
    bytesToFrame s ≤ 1 ∨ (t.ready = s.ready ∧ bytesToFrame s ≤ bytesToFrame t + 1) := by
  cases hstate : s.state with
  | standby =>
    rw [feed_standby hstate] at h
    cases h
    rw [bytesToFrame_standby hstate]
    split
    · exact .inr ⟨rfl, Nat.le_refl 14⟩
    · exact .inr ⟨rfl, by rw [bytesToFrame_standby hstate]; omega⟩
  | readingStart =>
    rw [feed_readingStart hstate] at h
    cases h
    split_ifs with h6
    · have hcaptured : bytesToFrame (setState .readingData (setWi 1 (storeCell 0 b s))) = 7 := rfl
      exact .inr ⟨rfl, by rw [bytesToFrame_readingStart hstate, hcaptured]; omega⟩
    · exact .inr ⟨rfl, bytesToFrame_le_advanceMarker h6⟩
    · exact .inr ⟨rfl, (bytesToFrame_le s).trans (Nat.le_succ 14)⟩
  | readingData =>
    rw [feed_readingData hstate] at h
    cases h
    rw [bytesToFrame_readingData hstate]
    split
    · exact .inr ⟨rfl, Nat.le_refl 7⟩
    · exact .inr ⟨rfl, by rw [bytesToFrame_readingData (s := append b s) hstate]; omega⟩
  | readingEnd =>
    rw [feed_readingEnd hstate] at h
    cases h
    split_ifs with h6
    · exact .inl (by rw [bytesToFrame_readingEnd hstate]; omega)
    · exact .inr ⟨rfl, bytesToFrame_le_advanceMarker h6⟩
    · rw [bytesToFrame_readingEnd hstate, bytesToFrame_readingData (setState_state _ _)]
      exact .inr ⟨by simp, by omega⟩

/-- A step takes one of the pending bytes or none. -/
theorem length_inputBytes_of_step (h : step s = .next t) :
    (inputBytes t.env).length ≤ (inputBytes s.env).length := by
  obtain ⟨hconsumed, hkept, -⟩ := handshakeConsumesOneByte s t h
  by_cases hshake : inValidSignal s = true ∧ inReadySignal s = true
  · obtain ⟨b, -, henv⟩ := hconsumed hshake
    simp [henv, inputBytes]
  · exact (congrArg List.length (hkept hshake)).le

/-- The flag is clear, nothing is published, and fewer bytes than a frame still needs are pending before the last
`c`. -/
structure NoFrameYet (c : Nat) (s : State) : Prop where
  ready : s.ready = false
  trace : s.trace = []
  bytes : (inputBytes s.env).length < bytesToFrame s + c

theorem noFrameYet_of_reset {c : Nat} {env : List EnvInput} (h : (inputBytes env).length < c + 14) :
    NoFrameYet c { State.reset with env := env } :=
  ⟨rfl, rfl, h.trans_eq (Nat.add_comm c 14)⟩

/-- Of the four kinds of step only a fed byte lowers the number of bytes to come, and each byte by one at most. -/
theorem step_keeps_noFrameYet {c : Nat} (hs : NoFrameYet c s) (h : step s = .next t)
    (hc : c ≤ (inputBytes t.env).length) : NoFrameYet c t := by
  obtain ⟨hready, htrace, hbytes⟩ := hs
  rcases step_cases h with ⟨rest, henv, rfl⟩ | ⟨hset, -, rfl⟩ | ⟨-, hnone | ⟨rest, hgap⟩, rfl⟩ |
    ⟨b, rest, -, henv, hfeed⟩
  · have hle := bytesToFrame_le s
    have hpending : inputBytes s.env = inputBytes rest := by rw [henv]; rfl
    refine noFrameYet_of_reset ?_
    rw [← hpending]
    omega
  · simp [hready] at hset
  · exact ⟨hready, htrace, by rwa [hnone] at hbytes ⊢⟩
  · exact ⟨hready, htrace, by rwa [hgap] at hbytes ⊢⟩
  · have hpending : (inputBytes s.env).length = (inputBytes t.env).length + 1 := by rw [henv, env_of_feed hfeed]; rfl
    rcases bytesToFrame_of_feed hfeed with hlast | ⟨hflag, hnear⟩
    · rw [bytesToFrame_withEnv] at hlast
      omega
    · rw [bytesToFrame_withEnv] at hnear
      exact ⟨hflag.trans hready, (trace_of_feed hfeed).trans htrace, by omega⟩

/-- Steps add no byte, so what is left out of the count at the end of a run is left out all along it. -/
theorem run_keeps_noFrameYet {c n : Nat} (hs : NoFrameYet c s) (h : run n s = .next t)
    (hc : c ≤ (inputBytes t.env).length) : NoFrameYet c t :=
  run_keeps (P := fun u => c ≤ (inputBytes u.env).length → NoFrameYet c u)
    (fun _ _ hu hstep hc => step_keeps_noFrameYet (hu (hc.trans (length_inputBytes_of_step hstep))) hstep hc)
    (fun _ => hs) h hc

end Count

/-- Settles O48: a fed byte brings a frame nearer by one byte at most, and a byte that completes one
lies past those that are counted. -/
theorem stepCountsBytesToTheFirstFrame : Obligations.StepCountsBytesToTheFirstFrame := by
  intro c s t hready htrace hbytes h hc
  obtain ⟨hready', htrace', hbytes'⟩ := step_keeps_noFrameYet ⟨hready, htrace, hbytes⟩ h hc
  exact ⟨hready', htrace', hbytes'⟩

/-- Settles O44: the count leaves out the bytes that are still pending at the end of the run. -/
theorem firstFrameNeedsFourteenBytes : Obligations.FirstFrameNeedsFourteenBytes := by
  intro env n t hrun hfed
  obtain ⟨hready, htrace, -⟩ := run_keeps_noFrameYet (noFrameYet_of_reset hfed) hrun le_rfl
  exact ⟨hready, htrace⟩

/-! ## The bare transition function and the flag (R241) -/

/-- Appends neither read nor write the flag. -/
theorem appendAll_withReady (vs : List Byte) (s : State) (r : Bool) :
    appendAll vs { s with ready := r } = { appendAll vs s with ready := r } := by
  induction vs generalizing s with
  | nil => rfl
  | cons v vs ih => exact ih (append v s)

/-- No operation but `PUBLISH` reads the flag or clears it. -/
theorem exec_withReady_true {i : Instr} {s t : State} (hi : i ≠ .publish)
    (h : exec i { s with ready := false } = .next t) :
    exec i { s with ready := true } = .next { t with ready := true } := by
  cases i with
  | publish => exact absurd rfl hi
  | reBacktrack mi b =>
    cases h
    simp only [exec, execReBacktrack, appendAll_withReady]
    rfl
  | _ => cases h; rfl

/-- Settles O19: the flag takes no part in the selection, and a fed byte never selects `PUBLISH`. -/
theorem bareFunctionIgnoresTheFlag : Obligations.BareFunctionIgnoresTheFlag :=
  fun b s _ => exec_withReady_true (decode_selectorOf_ne_publish b s)

/-! ## Stale registers (R245) -/

namespace StaleEq

variable {s t s' t' : State}

theorem withEnv (h : StaleEq s t) (env : List EnvInput) : StaleEq { s with env := env } { t with env := env } :=
  ⟨h.state, h.ready, h.buf, h.trace, rfl, h.mi, h.wi⟩

theorem resetPending_eq (h : StaleEq s t) : resetPending s = resetPending t := by simp [resetPending, h.env]

theorem publish (h : StaleEq s t) :
    StaleEq (setReady false (emit (frameEvents s.buf) s)) (setReady false (emit (frameEvents t.buf) t)) :=
  ⟨h.state, rfl, h.buf, congrArg₂ (· ++ frameEvents ·) h.trace h.buf, h.env, h.mi, h.wi⟩

theorem advanceMarker (h : StaleEq s t) : StaleEq (advanceMarker s) (advanceMarker t) :=
  ⟨h.state, h.ready, h.buf, h.trace, h.env, fun hmatching => congrArg (· + 1) (h.mi hmatching), h.wi⟩

/-- Inside a frame the Write Index is not stale, so appends go to the same cells (40_frame_decoder R110). -/
theorem append (h : StaleEq s t) (hfilling : s.state.filling = true) (v : Byte) :
    StaleEq (append v s) (append v t) :=
  ⟨h.state, h.ready, congrArg₂ (Memory.write · · v) h.buf (h.wi hfilling), h.trace, h.env, h.mi,
    fun _ => congrArg nextWriteIndex (h.wi hfilling)⟩

theorem appendAll (h : StaleEq s t) (hfilling : s.state.filling = true) (vs : List Byte) :
    StaleEq (appendAll vs s) (appendAll vs t) := by
  induction vs generalizing s t with
  | nil => exact h
  | cons v vs ih => exact ih (h.append hfilling v) hfilling

/-- A transition reads `mi` only while a marker is matched and `wi` only inside a frame, and sets each on the way into
the states that read it. -/
theorem feed (h : StaleEq s t) {b : Byte} (hs : feed b s = .next s') (ht : feed b t = .next t') : StaleEq s' t' := by
  cases hstate : s.state with
  | standby =>
    rw [feed_standby hstate] at hs
    rw [feed_standby (h.state ▸ hstate)] at ht
    cases hs
    cases ht
    split
    · exact ⟨rfl, h.ready, h.buf, h.trace, h.env, fun _ => rfl, nofun⟩
    · exact h
  | readingStart =>
    have hmi : s.mi = t.mi := h.mi (by rw [hstate]; rfl)
    rw [feed_readingStart hstate] at hs
    rw [feed_readingStart (h.state ▸ hstate), ← hmi] at ht
    cases hs
    cases ht
    split_ifs
    · exact ⟨rfl, h.ready, congrArg (Memory.write · 0 b) h.buf, h.trace, h.env, nofun, fun _ => rfl⟩
    · exact h.advanceMarker
    · exact ⟨rfl, h.ready, h.buf, h.trace, h.env, nofun, nofun⟩
  | readingData =>
    have hfilling : s.state.filling = true := by rw [hstate]; rfl
    rw [feed_readingData hstate] at hs
    rw [feed_readingData (h.state ▸ hstate)] at ht
    cases hs
    cases ht
    split
    · exact ⟨rfl, h.ready, h.buf, h.trace, h.env, fun _ => rfl, fun _ => h.wi hfilling⟩
    · exact h.append hfilling b
  | readingEnd =>
    have hmi : s.mi = t.mi := h.mi (by rw [hstate]; rfl)
    have hfilling : s.state.filling = true := by rw [hstate]; rfl
    rw [feed_readingEnd hstate] at hs
    rw [feed_readingEnd (h.state ▸ hstate), ← hmi] at ht
    cases hs
    cases ht
    split_ifs
    · exact ⟨rfl, rfl, h.buf, h.trace, h.env, nofun, nofun⟩
    · exact h.advanceMarker
    · have happended := (h.appendAll hfilling (heldBack s.mi)).append (by simpa using hfilling) b
      exact ⟨rfl, happended.ready, happended.buf, happended.trace, happended.env, nofun,
        fun _ => happended.wi (by simpa using hfilling)⟩

/-- The two steps are of one kind, since the flag and the pending inputs are equal. -/
theorem step (h : StaleEq s t) (hs : step s = .next s') (ht : step t = .next t') : StaleEq s' t' := by
  rcases step_cases hs with ⟨rest, henv, rfl⟩ | ⟨hready, hreset, rfl⟩ | ⟨hready, hnone | ⟨rest, hgap⟩, rfl⟩ |
    ⟨b, rest, hready, henv, hfeed⟩
  · rw [resetOverridesEverything t rest (h.env ▸ henv)] at ht
    cases ht
    exact ⟨rfl, rfl, rfl, rfl, rfl, fun _ => rfl, fun _ => rfl⟩
  · rw [step_eq_publish (h.ready ▸ hready) (h.resetPending_eq ▸ hreset)] at ht
    cases ht
    exact h.publish
  · rw [step_of_env_nil (h.ready ▸ hready) (h.env ▸ hnone)] at ht
    cases ht
    rwa [hnone, List.tail_nil, ← hnone]
  · rw [step_of_gap (h.ready ▸ hready) (h.env ▸ hgap)] at ht
    cases ht
    rw [hgap, List.tail_cons]
    exact h.withEnv rest
  · rw [step_eq_feed (h.ready ▸ hready) (h.env ▸ henv)] at ht
    exact (h.withEnv rest).feed hfeed ht

end StaleEq

/-- Settles O41: every step keeps the relation, so two runs of equal length do. -/
theorem staleRegistersDoNotMatter : Obligations.StaleRegistersDoNotMatter :=
  fun _ _ _ _ _ h => run_keeps_rel (fun _ _ _ _ => StaleEq.step) h

end Sys2Proof.Machine
